-- ==== Sys2Proof/Word.lean ====
section
/-! DEFINITION. The words the UQ84 shows on its link, and the one arithmetic shape of its counters. -/

namespace Sys2Proof

/-- One byte of a frame, a body or the store's media. -/
abbrev Byte := BitVec 8

/-- A 16-bit word: a frame CRC (R170), a capture sequence (R82). -/
abbrev W16 := BitVec 16

/-- A 32-bit word: the cycle number, which wraps (R2); a body CRC (R175). -/
abbrev W32 := BitVec 32

/-- One more than `n`, stopping at `top`: a saturating counter (00, "Numbers and units"). -/
def satSucc (top n : Nat) : Nat := min top (n + 1)

/-- The largest value of a 32-bit counter (R60, R90, R98, R145). -/
def counterTop : Nat := 4294967295

/-- A saturating 32-bit counter raised by one. -/
def bump (n : Nat) : Nat := satSucc counterTop n

end Sys2Proof
end

