-- ==== Sys2Proof/Syntax.lean ====
section
/-! DEFINITION. The commands of the UQ84: one constructor for each row of spec/opcode_table.json. -/

namespace Sys2Proof

/-- The level of a wire. -/
inductive Wire where
  | low
  | high
deriving DecidableEq, Repr

/-- The direction of an input edge (R74). -/
inductive Slope where
  | rise
  | fall
deriving DecidableEq, Repr

/-- The lines that pass through a filter (R74). -/
inductive Line where
  | input (i : Fin 4)
  | stop
deriving DecidableEq, Repr

/-- A request as the Request Handler takes it (R147): the tag, the CRC its frame carried (R150) and the
parameter bytes that follow the request code (R171). The code is the constructor's own. -/
structure Req where
  tag : Byte
  crc : W16
  params : List Byte
deriving DecidableEq, Repr

/-- The commands. A request's row stands for its body offered to the waiting-frame holding and taken (R140, R147);
an event's row for the happening at the block that owns it. -/
inductive Instr where
  | run (q : Req)
  | finish (q : Req)
  | halt (q : Req)
  | planSetCycle (q : Req)
  | planSetChannel (q : Req)
  | planSetInput (q : Req)
  | entryAdd (q : Req)
  | entryRemove (q : Req)
  | windowAdd (q : Req)
  | windowRemove (q : Req)
  | planClear (q : Req)
  | planCopyActive (q : Req)
  | planRead (q : Req)
  | entryList (q : Req)
  | windowList (q : Req)
  | planCheck (q : Req)
  | planCommit (q : Req)
  | planAbandon (q : Req)
  | channelHold (q : Req)
  | channelSet (q : Req)
  | channelPulse (q : Req)
  | channelRelease (q : Req)
  | captureRead (q : Req)
  | captureFlush (q : Req)
  | captureWatermark (q : Req)
  | profileSave (q : Req)
  | profileDelete (q : Req)
  | bootSet (q : Req)
  | storeFormat (q : Req)
  | profileLoad (q : Req)
  | profileList (q : Req)
  | storeStatus (q : Req)
  | restart (q : Req)
  | hello (q : Req)
  | goodbye (q : Req)
  | status (q : Req)
  | countersRead (q : Req)
  | countersClear (q : Req)
  /-- An acknowledgement of one notice number (R147, R166). -/
  | ack (number : W16)
  /-- A complete frame on the receive line: the bytes after its SYNC (R138). -/
  | frameReceived (bytes : List Byte)
  | gapTimerExpiry
  | transmitFrameEnd
  | lapse
  | resendTimerExpiry (number : W16)
  | inputEdge (i : Fin 4) (d : Slope)
  | stopAsserted
  | stopReleased
  | timelineEdge
  | endOfCycle
  | windowOpen (id : Nat)
  | windowClose
  | waitTimerExpiry
  | manualPulseExpiry (c : Fin 8)
  /-- A program step ends; `faults` lists media bytes of the row that read back other than they must (R100). -/
  | programStepEnd (faults : List Host.Cell)
  /-- A bank erase ends; `faults` lists media bytes of the bank that read back other than ones (R100). -/
  | eraseEnd (faults : List Host.Cell)
  | storeScanEnd
  /-- Power comes up; `torn` lists the bits a media step cut off here had not yet changed (R100). -/
  | powerUp (torn : List Host.Cell)
  /-- The RESET line is asserted; `torn` as in `powerUp`. -/
  | resetLine (torn : List Host.Cell)
  /-- The reset ends, with the levels of the two rate straps (R126, R134). -/
  | resetEnd (rate1 rate0 : Wire)
  /-- A character, or a break taken as 0, with whether its stop bit was low (R133). -/
  | characterReceived (byte : Byte) (lineError : Bool)
  | rawLineChange (line : Line) (level : Wire)
  /-- The supply fails; `torn` as in `powerUp`. -/
  | powerLoss (torn : List Host.Cell)
deriving DecidableEq, Repr

end Sys2Proof
end

