-- ==== Sys2Proof/Decode.lean ====
section
/-! DEFINITION. Words that spell commands. The UQ84's opcode table gives no row any bits: its commands are framed
messages and happenings (entry 30), so no word spells one. -/

namespace Sys2Proof

/-- The command a word spells by the table's bits: none, since no row of the table has bits. -/
def decodeTableWord (_nbits _w : Nat) : Option Instr := none

end Sys2Proof
end

