-- ==== Sys2Proof/Config.lean ====
section
/-! DEFINITION. The figures the spec fixes, and the values and orders it leaves open (opaque: nothing can be proved
of them). -/

namespace Sys2Proof.Config

/-- Ticks in a millisecond (01 section 1.1). -/
def ticksPerMs : Nat := 1000

/-- The depth of the STOP filter (R73). -/
def stopDepth : Nat := 16

/-- The capture queue's capacity (R82). -/
def captureDepth : Nat := 128

/-- The largest timeline (R43). -/
def edgeBudget : Nat := 256

/-- The gap limit in milliseconds (R137). -/
def gapMs : Nat := 4

/-- The ordinary places of the notice queue (R159). -/
def noticePlaces : Nat := 16

/-- The entries of the reply cache (R151). -/
def cacheDepth : Nat := 4

/-- The places of the reply outbox (R141). -/
def outboxDepth : Nat := 2

/-- The bytes of one bank (R100). -/
def bankSize : Nat := 16384

/-- The bytes of a bank header and of a record header (R101, R102). -/
def headerSize : Nat := 32

/-- The erase count past which no erase is made (R114). -/
def wearLimit : Nat := 50000

/-- The ticks the STOP filter must have sampled before stage 6: 16 since the first (R130). -/
def settleTicks : Nat := 17

/-- The silicon revision less one; the spec gives 1 to 255 and no more (R153; entry 21). -/
opaque revisionLessOne : Fin 255

/-- Whether the Window Monitor takes an input edge before the Cycle Controller, for the n-th choice (R95; entry 3). -/
opaque monitorFirst : Nat → Bool

/-- Whether a notice that becomes ready in the same request as its reply is begun first, for the n-th choice
(R143; entry 4). -/
opaque noticeFirst : Nat → Bool

/-- Which of several due happenings of one tick is taken first, for the n-th choice (R77; entry 2). -/
opaque pick : Nat → Nat

end Sys2Proof.Config
end

