-- ==== Sys2Proof/Machine/Row.lean ====
section
/-! DEFINITION. A fixed number of like things (channels, inputs, slots, window counters): a list that carries its
length. -/

namespace Sys2Proof.Machine

/-- `n` cells of one type. -/
structure Row (n : Nat) (α : Type) where
  cells : List α
  size : cells.length = n
deriving DecidableEq, Repr

/-- The cell at an index. -/
def Row.get {n : Nat} {α : Type} (r : Row n α) (i : Fin n) : α :=
  r.cells[i.val]'(by rw [r.size]; exact i.isLt)

/-- The row whose cell at each index the function gives. -/
def Row.tab {n : Nat} {α : Type} (f : Fin n → α) : Row n α :=
  ⟨List.ofFn f, List.length_ofFn⟩

/-- The row with one cell replaced. -/
def Row.set {n : Nat} {α : Type} (r : Row n α) (i : Fin n) (v : α) : Row n α :=
  ⟨r.cells.set i.val v, by rw [List.length_set]; exact r.size⟩

/-- The row with one cell changed by a function. -/
def Row.modify {n : Nat} {α : Type} (r : Row n α) (i : Fin n) (f : α → α) : Row n α :=
  r.set i (f (r.get i))

/-- Every cell changed by a function of its index. -/
def Row.mapIdx {n : Nat} {α β : Type} (r : Row n α) (f : Fin n → α → β) : Row n β :=
  Row.tab fun i => f i (r.get i)

/-- Every cell the same. -/
def Row.fill (n : Nat) {α : Type} (v : α) : Row n α :=
  ⟨List.replicate n v, List.length_replicate⟩

end Sys2Proof.Machine
end

