-- ==== Sys2Proof/Machine/Plan.lean ====
section
/-! DEFINITION. Plans (chapter 2) and the timelines they expand into (R45). -/

namespace Sys2Proof.Machine

/-- How cycles start (01 section 1.3). -/
inductive Source where
  | internal
  | triggered
deriving DecidableEq, Repr

/-- The direction of a start edge; NONE stands in the empty plan (R24). -/
inductive StartEdge where
  | rise
  | fall
  | none
deriving DecidableEq, Repr

/-- What a starve expiry, a miss or a lapse does to the sequencer (R11, R18). -/
inductive Policy where
  | notify
  | halt
deriving DecidableEq, Repr

/-- Which level of the line is the active one (R61). -/
inductive Sense where
  | activeHigh
  | activeLow
deriving DecidableEq, Repr

/-- Whether the plan uses a channel (02 section 2.1). -/
inductive Use where
  | used
  | unused
deriving DecidableEq, Repr

/-- Which edges of an input are captured (R78). -/
inductive CaptureEdges where
  | none
  | rise
  | fall
  | both
deriving DecidableEq, Repr

/-- The cycle block of a plan. -/
structure CycleBlock where
  source : Source
  length : Nat
  guard : Nat
  startInput : Fin 4
  startEdge : StartEdge
  starveLimit : Nat
  starvePolicy : Policy
deriving DecidableEq, Repr

/-- A channel record of a plan. -/
structure ChannelCfg where
  sense : Sense
  use : Use
deriving DecidableEq, Repr

/-- An input record of a plan. -/
structure InputCfg where
  depth : Nat
  capture : CaptureEdges
deriving DecidableEq, Repr

/-- The action of an entry; a width stands with PULSE and only then (R29). -/
inductive Action where
  | on
  | off
  | flip
  | pulse (width : Nat)
deriving DecidableEq, Repr

/-- The repeat group of an entry. -/
structure Repeat where
  count : Nat
  spacing : Nat
deriving DecidableEq, Repr

/-- The every group of an entry: the cycles whose number leaves `remainder` (R54). -/
structure Every where
  divider : Nat
  remainder : Nat
deriving DecidableEq, Repr

/-- The gate group of an entry (R55). -/
structure Gate where
  input : Fin 4
  level : Wire
deriving DecidableEq, Repr

/-- One row of a plan's entries table. -/
structure Entry where
  id : Nat
  offset : Nat
  channel : Fin 8
  action : Action
  rep : Option Repeat
  every : Option Every
  gate : Option Gate
deriving DecidableEq, Repr

/-- One row of a plan's window table. -/
structure Window where
  id : Nat
  input : Fin 4
  edge : Slope
  openAt : Nat
  closeAt : Nat
  policy : Policy
deriving DecidableEq, Repr

/-- A plan: its five parts (02 section 2.1). -/
structure Plan where
  cycle : CycleBlock
  channels : Row 8 ChannelCfg
  inputs : Row 4 InputCfg
  entries : List Entry
  windows : List Window
deriving DecidableEq, Repr

/-- The empty plan (R24). -/
def Plan.empty : Plan where
  cycle :=
    { source := .internal, length := 10000, guard := 0, startInput := 0, startEdge := .none,
      starveLimit := 0, starvePolicy := .notify }
  channels := Row.fill 8 ⟨.activeHigh, .unused⟩
  inputs := Row.fill 4 ⟨0, .none⟩
  entries := []
  windows := []

/-- What a timeline edge does to its channel's level (R45). -/
inductive Change where
  | toActive
  | toInactive
  | flip
deriving DecidableEq, Repr

/-- The part an edge has in its occurrence (R45). -/
inductive Role where
  | single
  | pulseStart
  | pulseEnd
deriving DecidableEq, Repr

/-- One edge of a timeline (R45). -/
structure TEdge where
  phase : Nat
  channel : Fin 8
  change : Change
  role : Role
  entry : Nat
  occurrence : Nat
  every : Option Every
  gate : Option Gate
deriving DecidableEq, Repr

end Sys2Proof.Machine
end

