-- ==== Sys2Proof/Machine/State.lean ====
section
/-! DEFINITION. The state of the UQ84, block by block, and its value right after a reset. -/

namespace Sys2Proof.Machine

/-! ## Cycle Controller (chapter 1) -/

/-- The sequencer states (01 section 1.2). -/
inductive Mode where
  | idle
  | armed
  | cycling
  | waiting
  | halted
deriving DecidableEq, Repr

/-- The seven halt causes (01 section 1.5). -/
inductive HaltCause where
  | host
  | finished
  | countDone
  | stopLine
  | windowMiss
  | starved
  | lapse
deriving DecidableEq, Repr

/-- The halt record (R17). -/
structure HaltRecord where
  cause : HaltCause
  cycle : W32
  phase : Nat
  subject : Option Nat
deriving DecidableEq, Repr

/-- The Cycle Controller's state. -/
structure Sequencer where
  mode : Mode
  phase : Nat
  cycle : W32
  remaining : Option Nat
  finish : Bool
  halt : Option HaltRecord
  /-- The wait timer: ticks since the wait began, or stopped (R11; entry 11). -/
  wait : Option Nat
  /-- The model's own: the tick has come at which the phase would reach the length (R1; entry 12). -/
  endDue : Bool
deriving DecidableEq, Repr

/-! ## Plan Buffers (chapter 2) -/

/-- The last commit outcome (R46 to R49). -/
inductive CommitOutcome where
  | none
  | pending
  | applied (cycle : Option W32)
  | abandoned
deriving DecidableEq, Repr

/-- The Plan Buffers' state. -/
structure PlanBuffers where
  staged : Plan
  active : Plan
  stagedTimeline : List TEdge
  commitPending : Bool
  outcome : CommitOutcome
deriving DecidableEq, Repr

/-- The commit checks, in their order (R40). -/
inductive Check where
  | cycleRange
  | startEdge
  | offsetRange
  | pulseEnd
  | channelUnused
  | edgeSpacing
  | edgeBudget
  | windowRange
deriving DecidableEq, Repr

/-! ## Timeline Engine (03 section 3.1) -/

/-- A PULSE occurrence (R57), known by entry id and occurrence; two entries of a loaded plan that share an id share it
(DESIGN CHOICE, entry 46). -/
structure PulseId where
  entry : Nat
  occurrence : Nat
deriving DecidableEq, Repr

/-- A skip mark (R53). -/
inductive Mark where
  | gated
  | suppressed
deriving DecidableEq, Repr

/-- The four counters of a channel (R60). -/
structure ChannelTally where
  applied : Nat
  gatedOff : Nat
  suppressed : Nat
  truncated : Nat
deriving DecidableEq, Repr

/-- The Timeline Engine's state. -/
structure Timeline where
  edges : List TEdge
  next : Nat
  pulses : Row 8 (Option PulseId)
  marks : List (PulseId × Mark)
  tallies : Row 8 ChannelTally
deriving DecidableEq, Repr

/-! ## Output Drivers (03 section 3.2) -/

/-- A channel's level. -/
inductive Level where
  | active
  | inactive
deriving DecidableEq, Repr

/-- A channel's drive. -/
inductive Drive where
  | driven
  | highZ
deriving DecidableEq, Repr

/-- A channel's hold. -/
inductive Hold where
  | free
  | held
deriving DecidableEq, Repr

/-- One output channel; `manual` holds the remaining ticks of a manual pulse. -/
structure Channel where
  sense : Sense
  use : Use
  level : Level
  drive : Drive
  hold : Hold
  manual : Option Nat
deriving DecidableEq, Repr

/-! ## Input Filters (04 section 4.1) -/

/-- One filter: the raw level of its line, the filtered level, the candidate's age, the depth in force. The
candidate's value is the sampled level, which then differs from the filtered one. The model's own (entry 40): `prior` is
the candidate's age before this tick's sample, `taken` says that this tick's edge has been taken. -/
structure Filter where
  raw : Wire
  level : Wire
  cand : Option Nat
  depth : Nat
  prior : Option Nat
  taken : Bool
deriving DecidableEq, Repr

/-- The Input Filters' state; `settle` counts the ticks sampled since the reset ended, up to 17 (R130). -/
structure Filters where
  inputs : Row 4 Filter
  stop : Filter
  settle : Nat
deriving DecidableEq, Repr

/-! ## Capture Queue (04 section 4.3) -/

/-- The state in which the Cycle Controller took an edge (R79). -/
inductive Timing where
  | armed
  | inCycle
  | waiting
deriving DecidableEq, Repr

/-- What the Cycle Controller made of an edge (R79). -/
inductive EdgeRole where
  | none
  | start
  | early
deriving DecidableEq, Repr

/-- A capture record (R79). -/
structure CaptureRecord where
  seq : W16
  input : Fin 4
  edge : Slope
  cycle : W32
  phase : Nat
  timing : Timing
  role : EdgeRole
  window : Option Nat
  loss : Option Nat
deriving DecidableEq, Repr

/-- The three counters of an input (R90). -/
structure InputTally where
  stored : Nat
  dropped : Nat
  early : Nat
deriving DecidableEq, Repr

/-- The Capture Queue's state; the level is the number of records. -/
structure Captures where
  records : List CaptureRecord
  nextSeq : W16
  loss : Row 4 Nat
  watermark : Nat
  armed : Bool
  tallies : Row 4 InputTally
deriving DecidableEq, Repr

/-! ## Window Monitor (chapter 5) -/

/-- A window's state within a cycle. -/
inductive WatchState where
  | pending
  | opened
  | met
  | missed
  | abandoned
deriving DecidableEq, Repr

/-- A window of the active plan with its state and first hit. -/
structure Watch where
  window : Window
  state : WatchState
  hit : Option Nat
deriving DecidableEq, Repr

/-- The three counters of a window id (R98). -/
structure WindowTally where
  met : Nat
  missed : Nat
  cut : Nat
deriving DecidableEq, Repr

/-- The Window Monitor's state; cell `k` of `tallies` is window id `k + 1`. -/
structure Monitor where
  table : List Watch
  inProgress : Bool
  tallies : Row 15 WindowTally
deriving DecidableEq, Repr

/-! ## Profile Store (chapter 6) -/

/-- The store's media: the bytes that are not erased, by address; bank A lies at 0 and bank B at 16,384. -/
abbrev Media := List Host.Cell

/-- A bank. -/
inductive Bank where
  | a
  | b
deriving DecidableEq, Repr

/-- The store states (R104). -/
inductive StoreStatus where
  | starting
  | ready
  | busy
  | readOnly
deriving DecidableEq, Repr

/-- A slot's entry in the directory (R105). -/
structure DirEntry where
  writeNumber : Nat
  name : List Byte
  bodyLength : Nat
  offset : Nat
deriving DecidableEq, Repr

/-- The boot selection's record in the directory (R105). -/
structure BootEntry where
  writeNumber : Nat
  selected : Option (Fin 8)
  autoRun : Bool
  offset : Nat
deriving DecidableEq, Repr

/-- The directory (R105). -/
structure Directory where
  slots : Row 8 (Option DirEntry)
  boot : Option BootEntry
  bank : Option Bank
  nextWrite : Nat
  free : Nat
  dead : Nat
deriving DecidableEq, Repr

/-- The directory with no bank (R105, R119). -/
def Directory.blank : Directory where
  slots := Row.fill 8 none
  boot := none
  bank := none
  nextWrite := 1
  free := 0
  dead := 0

/-- A writing operation (R106). -/
inductive StoreOp where
  | save (slot : Fin 8)
  | delete (slot : Fin 8)
  | bootSet (selected : Option (Fin 8))
  | format
deriving DecidableEq, Repr

/-- A step on the media (R100): programming a row, or erasing a bank. -/
inductive MediaAct where
  | program (bank : Bank) (offset : Nat) (data : List Byte)
  | erase (bank : Bank)
deriving DecidableEq, Repr

/-- What a step changes in the store once it has verified (R105). -/
inductive StoreEffect where
  /-- A new record's header is programmed: a write number is issued and free bytes fall (R108 step 1). -/
  | issued (size : Nat)
  | profileLive (slot : Fin 8) (entry : DirEntry)
  | bootLive (entry : BootEntry)
  /-- A record is marked DEAD: its size joins the dead bytes. -/
  | madeDead (size : Nat)
  | slotEmptied (slot : Fin 8)
  /-- A compaction's new bank is CURRENT (R109 step 4). -/
  | becameCurrent (bank : Bank)
  /-- A bank is FRESH with this erase count (R101). -/
  | freshCounted (bank : Bank) (count : Nat)
  /-- A format has made bank A CURRENT (R112). -/
  | formatted
  /-- A repair of the scan (R119 to R121). -/
  | repaired
deriving DecidableEq, Repr

/-- One media step of an operation, whether it belongs to a compaction, and its effects. -/
structure MediaStep where
  act : MediaAct
  compacting : Bool
  effects : List StoreEffect
deriving DecidableEq, Repr

/-- Whose work the media steps are: a writing operation's, or the start-up scan's with the directory it found. -/
inductive JobKind where
  | op (o : StoreOp)
  | scan (found : Directory) (corrupt : Nat) (formatting : Bool)
deriving DecidableEq, Repr

/-- The store's work in progress: the steps still to end, the first of them under way. -/
structure Job where
  kind : JobKind
  steps : List MediaStep
  compacted : Bool
  /-- An erase was blocked by wear (R114). -/
  worn : Bool
  /-- A verify failure has met the scan (R121). -/
  failed : Bool
  repairs : Nat
deriving DecidableEq, Repr

/-- The Profile Store's state besides the media. -/
structure Store where
  status : StoreStatus
  dir : Directory
  job : Option Job
  countA : Nat
  countB : Nat
deriving DecidableEq, Repr

/-- The result of a writing operation (R106). -/
inductive StoreResult where
  | done
  | verifyFailed
deriving DecidableEq, Repr

/-! ## Start-up Loader (chapter 7) -/

/-- The reset causes (R123). -/
inductive ResetCause where
  | power
  | resetLine
  | restart
deriving DecidableEq, Repr

/-- The start-up stages (07 table). -/
inductive Stage where
  | inReset
  | linkUp
  | scanning
  | booting
  | complete
deriving DecidableEq, Repr

/-- The boot results (R128). -/
inductive BootResult where
  | loaded
  | noSelection
  | emptySlot
  | recordBad
  | planInvalid
deriving DecidableEq, Repr

/-- The auto-run results (R130). -/
inductive AutoResult where
  | off
  | notBooted
  | started
  | inhibited
  | planEmpty
deriving DecidableEq, Repr

/-- The scan's results, kept for the report (R127). -/
structure ScanReport where
  readOnly : Bool
  repairs : Nat
  corrupt : Nat
  formatted : Bool
deriving DecidableEq, Repr

/-- The Start-up Loader's state. -/
structure Startup where
  cause : ResetCause
  stage : Stage
  bootSlot : Option (Fin 8)
  bootResult : BootResult
  autoResult : AutoResult
  autoRun : Bool
  scan : ScanReport
  /-- The model's own: whether the supply is good (POWER_LOSS, POWER_UP). -/
  powered : Bool
deriving DecidableEq, Repr

/-! ## Notices (chapter 10) -/

/-- The merging kinds with their subjects (10 section 10.5). -/
inductive MergeKind where
  | cycleCut
  | earlyStart (input : Fin 4)
  | starved
  | windowMissed (id : Nat)
  | captureLevel
  | captureLoss (input : Fin 4)
deriving DecidableEq, Repr

/-- The non-merging kinds with their payloads (10 section 10.5). -/
inductive Report where
  | halted (record : HaltRecord)
  | committed (cycle : Option W32)
  | storeDone (op : StoreOp) (result : StoreResult) (compacted : Bool)
  | startup (cause : ResetCause) (scan : ScanReport) (slot : Option (Fin 8)) (boot : BootResult) (auto : AutoResult)
deriving DecidableEq, Repr

/-- What a block hands to the Notice Queue (10 section 10.2); every amount is 1. -/
inductive Occurrence where
  | merging (kind : MergeKind) (cycle : W32)
  | report (r : Report)
deriving DecidableEq, Repr

/-- What a notice entry tells. `loss` holds the code of the kind of the last occurrence it took (R163). -/
inductive Content where
  | merging (kind : MergeKind) (first last : W32)
  | loss (lastKind : Nat)
  | report (r : Report)
deriving DecidableEq, Repr

/-- A resend timer: ticks since it started, and the interval in milliseconds it started with (R164). -/
structure ResendTimer where
  elapsed : Nat
  interval : Nat
deriving DecidableEq, Repr

/-- A notice entry; `origin` is 0 for non-merging kinds (R173). -/
structure Notice where
  number : Nat
  content : Content
  count : Nat
  origin : Nat
  sent : Bool
  shown : Bool
  timer : Option ResendTimer
deriving DecidableEq, Repr

/-- The Notice Queue's state. -/
structure Notices where
  entries : List Notice
  next : Nat
  resend : Nat
deriving DecidableEq, Repr

/-! ## Link Interface and Request Handler (chapters 8 and 9) -/

/-- The link rates (R134). -/
inductive LinkRate where
  | r115200
  | r460800
  | r921600
  | r1843200
deriving DecidableEq, Repr

/-- The assembler states (R136). -/
inductive AsmState where
  | searching
  | length
  | body
  | check
deriving DecidableEq, Repr

/-- The frame assembler; `gap` is the gap timer in ticks. -/
structure Asm where
  state : AsmState
  held : List Byte
  expected : Option Nat
  gap : Option Nat
deriving DecidableEq, Repr

/-- A waiting frame: its body and the CRC it carried (R140, R150). -/
structure Frame where
  body : List Byte
  crc : W16
deriving DecidableEq, Repr

/-- The status codes of a reply with the data they carry (R152). -/
inductive Status where
  | ok
  | accepted
  | pending (edges : Nat)
  | noSession
  | starting
  | version
  | unknownRequest
  | badLength
  | badValue (index : Nat)
  | notFound
  | duplicateId
  | tableFull
  | commitPending
  | noCommit
  | tooLate (cycle : Option W32)
  | planInvalid (check : Check) (subject : Option Nat)
  | planEmpty
  | wrongState
  | inhibited
  | notHeld
  | channelBusy
  | storeBusy
  | storeReadOnly
  | emptySlot
  | recordBad
deriving DecidableEq, Repr

/-- A reply (R149); `payload` is what the request's own rule carries, the status's data apart. -/
structure Reply where
  tag : Byte
  code : Byte
  status : Status
  repeated : Bool
  payload : List Byte
deriving DecidableEq, Repr

/-- Whose frame the transmitter sends (R142). -/
inductive TxOwner where
  | reply (code : Byte) (status : Status)
  | notice (number : Nat)
deriving DecidableEq, Repr

/-- The transmitter, with the bytes of the frame it sends. -/
inductive Tx where
  | idle
  | sending (owner : TxOwner) (frame : List Byte)
deriving DecidableEq, Repr

/-- The ten link counters (R145). -/
structure LinkCounters where
  framesGood : Nat
  gap : Nat
  crc : Nat
  lengthError : Nat
  badBody : Nat
  overrun : Nat
  lineError : Nat
  staleAck : Nat
  repliesSent : Nat
  noticesSent : Nat
deriving DecidableEq, Repr

/-- Ten counters at 0. -/
def LinkCounters.zero : LinkCounters := ⟨0, 0, 0, 0, 0, 0, 0, 0, 0, 0⟩

/-- The Link Interface's state. -/
structure Link where
  rate : LinkRate
  asm : Asm
  waiting : Option Frame
  outbox : List Reply
  tx : Tx
  counters : LinkCounters
deriving DecidableEq, Repr

/-- What the Request Handler takes (R147). -/
inductive Intake where
  | taking
  | awaitingGoodbye
  | awaitingRestart
deriving DecidableEq, Repr

/-- An entry of the reply cache (R151). -/
structure CacheEntry where
  tag : Byte
  crc : W16
  reply : Reply
deriving DecidableEq, Repr

/-- The Request Handler's state; times are milliseconds, the timer ticks (entry 11). -/
structure Session where
  isOpen : Bool
  resend : Nat
  lapseTime : Nat
  lapsePolicy : Policy
  lapseTimer : Option Nat
  intake : Intake
  cache : List CacheEntry
deriving DecidableEq, Repr

/-! ## The machine -/

/-- Why a step may stop with a fault. -/
inductive Fault where
  /-- A media step would program a byte outside its bank, where no cell exists (R100). Raised by PROGRAM_STEP_END;
  no run from reset comes to it. Safe: the machine stops where the spec has nothing to say. -/
  | mediaOutside
deriving DecidableEq, Repr

/-- Why a step may be refused. -/
inductive Refusal where
  /-- A command without a meaning yet, by its mnemonic. Raised by no arm of this model. Safe. -/
  | notModelled (mnemonic : String)
deriving DecidableEq, Repr

/-- The state of the UQ84, and the queue of the commands that wait. -/
structure State where
  seq : Sequencer
  plans : PlanBuffers
  timeline : Timeline
  channels : Row 8 Channel
  filters : Filters
  captures : Captures
  monitor : Monitor
  media : Media
  store : Store
  startup : Startup
  notices : Notices
  link : Link
  session : Session
  /-- The model's own: how many open choices of order have been settled (entries 2, 3, 4). -/
  choices : Nat
  /-- The commands that wait, first in, first out. -/
  pending : List Instr
deriving DecidableEq, Repr

/-- A channel after a reset (R61). -/
def Channel.reset : Channel := ⟨.activeHigh, .unused, .inactive, .highZ, .free, none⟩

/-- The filter of an input after a reset (R73), its line at a level. -/
def Filter.resetInput (raw : Wire) : Filter := ⟨raw, .low, none, 0, none, false⟩

/-- The STOP filter after a reset (R73), its line at a level. -/
def Filter.resetStop (raw : Wire) : Filter := ⟨raw, .high, none, Config.stopDepth, none, false⟩

/-- The assembler after a reset (R135). -/
def Asm.reset : Asm := ⟨.searching, [], none, none⟩

/-- The machine right after a reset: each block as its chapter gives it (R3, R23, R51, R61, R73, R81, R92, R104, R105,
R123, R135, R146, R159), in stage IN_RESET with cause POWER (entry 7), new media and unconnected pins (entries 7, 8). -/
def State.reset : State where
  seq :=
    { mode := .idle, phase := 0, cycle := 0, remaining := none, finish := false, halt := none, wait := none,
      endDue := false }
  plans :=
    { staged := Plan.empty, active := Plan.empty, stagedTimeline := [], commitPending := false, outcome := .none }
  timeline :=
    { edges := [], next := 0, pulses := Row.fill 8 none, marks := [], tallies := Row.fill 8 ⟨0, 0, 0, 0⟩ }
  channels := Row.fill 8 Channel.reset
  filters := { inputs := Row.fill 4 (Filter.resetInput .low), stop := Filter.resetStop .low, settle := 0 }
  captures :=
    { records := [], nextSeq := 0, loss := Row.fill 4 0, watermark := 32, armed := true,
      tallies := Row.fill 4 ⟨0, 0, 0⟩ }
  monitor := { table := [], inProgress := false, tallies := Row.fill 15 ⟨0, 0, 0⟩ }
  media := []
  store := { status := .starting, dir := Directory.blank, job := none, countA := 0, countB := 0 }
  startup :=
    { cause := .power, stage := .inReset, bootSlot := none, bootResult := .noSelection, autoResult := .off,
      autoRun := false, scan := ⟨false, 0, 0, false⟩, powered := true }
  notices := { entries := [], next := 1, resend := 250 }
  link :=
    { rate := .r115200, asm := Asm.reset, waiting := none, outbox := [], tx := .idle, counters := LinkCounters.zero }
  session :=
    { isOpen := false, resend := 250, lapseTime := 0, lapsePolicy := .notify, lapseTimer := none, intake := .taking,
      cache := [] }
  choices := 0
  pending := []

end Sys2Proof.Machine
end

