-- ==== Sys2Proof/Machine/Codec.lean ====
section
/-! DEFINITION. The byte layouts of chapter 11: numbers, codes, CRCs, entry and window records, the serialized plan,
capture and halt records, notice and reply bodies, frames. -/

namespace Sys2Proof.Machine

/-! ## Numbers (R169, R172) -/

/-- A one-byte field. -/
def be1 (n : Nat) : List Byte := [BitVec.ofNat 8 n]

/-- A two-byte field, most significant byte first. -/
def be2 (n : Nat) : List Byte := [BitVec.ofNat 8 (n / 256), BitVec.ofNat 8 n]

/-- A three-byte field. -/
def be3 (n : Nat) : List Byte := [BitVec.ofNat 8 (n / 65536), BitVec.ofNat 8 (n / 256), BitVec.ofNat 8 n]

/-- A four-byte field. -/
def be4 (n : Nat) : List Byte :=
  [BitVec.ofNat 8 (n / 16777216), BitVec.ofNat 8 (n / 65536), BitVec.ofNat 8 (n / 256), BitVec.ofNat 8 n]

/-- The number that bytes spell, most significant first. -/
def fromBe (bytes : List Byte) : Nat := bytes.foldl (fun n b => n * 256 + b.toNat) 0

/-- Read a one-byte field. -/
def read1 : List Byte → Option (Nat × List Byte)
  | a :: r => some (a.toNat, r)
  | [] => none

/-- Read a two-byte field. -/
def read2 : List Byte → Option (Nat × List Byte)
  | a :: b :: r => some (fromBe [a, b], r)
  | _ => none

/-- Read a three-byte field. -/
def read3 : List Byte → Option (Nat × List Byte)
  | a :: b :: c :: r => some (fromBe [a, b, c], r)
  | _ => none

/-- Read what a presence bit stands for: nothing when the bit is clear (R172). -/
def readIf {α : Type} (present : Bool) (rd : List Byte → Option (α × List Byte)) (bs : List Byte) :
    Option (Option α × List Byte) :=
  if present then (rd bs).map fun p => (some p.1, p.2) else some (none, bs)

/-- Read two fields in a row. -/
def readBoth {α β : Type} (ra : List Byte → Option (α × List Byte)) (rb : List Byte → Option (β × List Byte))
    (bs : List Byte) : Option ((α × β) × List Byte) :=
  (ra bs).bind fun p => (rb p.2).map fun q => ((p.1, q.1), q.2)

/-- Read a number of like things. -/
def readMany {α : Type} (rd : List Byte → Option (α × List Byte)) : Nat → List Byte → Option (List α × List Byte)
  | 0, bs => some ([], bs)
  | n + 1, bs => (rd bs).bind fun p => (readMany rd n p.2).map fun q => (p.1 :: q.1, q.2)

/-- What was read, if it used up the bytes (R172, "Refusals for length"). -/
def allRead {α : Type} (r : Option (α × List Byte)) : Option α :=
  r.bind fun p => if p.2 = [] then some p.1 else none

/-- The parameters of a request without fields. -/
def readNothing (bs : List Byte) : Option Unit := if bs = [] then some () else none

/-! ## Codes of enumerated values (R172): positions from 0 in the manual's order -/

def yesNo (b : Bool) : Nat := if b then 1 else 0

def Source.code : Source → Nat
  | .internal => 0
  | .triggered => 1

def Source.ofCode : Nat → Option Source
  | 0 => some .internal
  | 1 => some .triggered
  | _ => none

def StartEdge.code : StartEdge → Nat
  | .rise => 0
  | .fall => 1
  | .none => 2

/-- The start edges a request may name: NONE is refused (R26). -/
def StartEdge.ofCode : Nat → Option StartEdge
  | 0 => some .rise
  | 1 => some .fall
  | _ => Option.none

def Policy.code : Policy → Nat
  | .notify => 0
  | .halt => 1

def Policy.ofCode : Nat → Option Policy
  | 0 => some .notify
  | 1 => some .halt
  | _ => none

def Sense.code : Sense → Nat
  | .activeHigh => 0
  | .activeLow => 1

def Sense.ofCode : Nat → Option Sense
  | 0 => some .activeHigh
  | 1 => some .activeLow
  | _ => none

/-- USED and UNUSED as a request's field. -/
def Use.ofCode : Nat → Option Use
  | 0 => some .used
  | 1 => some .unused
  | _ => none

def CaptureEdges.code : CaptureEdges → Nat
  | .none => 0
  | .rise => 1
  | .fall => 2
  | .both => 3

def CaptureEdges.ofCode : Nat → Option CaptureEdges
  | 0 => some .none
  | 1 => some .rise
  | 2 => some .fall
  | 3 => some .both
  | _ => Option.none

def slopeCode : Slope → Nat
  | .rise => 0
  | .fall => 1

def slopeOfCode : Nat → Option Slope
  | 0 => some .rise
  | 1 => some .fall
  | _ => none

/-- A gate level: HIGH 0, LOW 1, as 02 section 2.1 lists them. -/
def wireCode : Wire → Nat
  | .high => 0
  | .low => 1

def wireOfCode : Nat → Option Wire
  | 0 => some .high
  | 1 => some .low
  | _ => none

def Action.code : Action → Nat
  | .on => 0
  | .off => 1
  | .flip => 2
  | .pulse _ => 3

def Level.ofCode : Nat → Option Level
  | 0 => some .active
  | 1 => some .inactive
  | _ => none

/-- An input or a channel number. -/
def finOfCode (n : Nat) (k : Nat) : Option (Fin n) := if h : k < n then some ⟨k, h⟩ else none

def Mode.code : Mode → Nat
  | .idle => 0
  | .armed => 1
  | .cycling => 2
  | .waiting => 3
  | .halted => 4

def HaltCause.code : HaltCause → Nat
  | .host => 0
  | .finished => 1
  | .countDone => 2
  | .stopLine => 3
  | .windowMiss => 4
  | .starved => 5
  | .lapse => 6

/-- The commit checks take their order numbers (R172). -/
def Check.code : Check → Nat
  | .cycleRange => 1
  | .startEdge => 2
  | .offsetRange => 3
  | .pulseEnd => 4
  | .channelUnused => 5
  | .edgeSpacing => 6
  | .edgeBudget => 7
  | .windowRange => 8

def Timing.code : Timing → Nat
  | .armed => 0
  | .inCycle => 1
  | .waiting => 2

def EdgeRole.code : EdgeRole → Nat
  | .none => 0
  | .start => 1
  | .early => 2

def WatchState.code : WatchState → Nat
  | .pending => 0
  | .opened => 1
  | .met => 2
  | .missed => 3
  | .abandoned => 4

def StoreStatus.code : StoreStatus → Nat
  | .starting => 0
  | .ready => 1
  | .busy => 2
  | .readOnly => 3

/-- The current bank: A, B or none, in that order (entry 14). -/
def bankCode : Option Bank → Nat
  | some .a => 0
  | some .b => 1
  | none => 2

def StoreOp.code : StoreOp → Nat
  | .save _ => 0
  | .delete _ => 1
  | .bootSet _ => 2
  | .format => 3

/-- The slot of an operation, where it has one (R106). -/
def StoreOp.slot : StoreOp → Option (Fin 8)
  | .save i => some i
  | .delete i => some i
  | .bootSet sel => sel
  | .format => none

def StoreResult.code : StoreResult → Nat
  | .done => 0
  | .verifyFailed => 1

def ResetCause.code : ResetCause → Nat
  | .power => 0
  | .resetLine => 1
  | .restart => 2

def BootResult.code : BootResult → Nat
  | .loaded => 0
  | .noSelection => 1
  | .emptySlot => 2
  | .recordBad => 3
  | .planInvalid => 4

def AutoResult.code : AutoResult → Nat
  | .off => 0
  | .notBooted => 1
  | .started => 2
  | .inhibited => 3
  | .planEmpty => 4

/-- The status codes are positions in the table of R152 (R171). -/
def Status.code : Status → Nat
  | .ok => 0
  | .accepted => 1
  | .pending _ => 2
  | .noSession => 3
  | .starting => 4
  | .version => 5
  | .unknownRequest => 6
  | .badLength => 7
  | .badValue _ => 8
  | .notFound => 9
  | .duplicateId => 10
  | .tableFull => 11
  | .commitPending => 12
  | .noCommit => 13
  | .tooLate _ => 14
  | .planInvalid _ _ => 15
  | .planEmpty => 16
  | .wrongState => 17
  | .inhibited => 18
  | .notHeld => 19
  | .channelBusy => 20
  | .storeBusy => 21
  | .storeReadOnly => 22
  | .emptySlot => 23
  | .recordBad => 24

/-- A slot or subject, or the byte 0xFF that stands for none (R172). -/
def orFF : Option Nat → List Byte
  | some n => be1 n
  | none => be1 255

/-- An optional item of a payload: a presence byte, then the item when it is present (R172). -/
def optItem : Option (List Byte) → List Byte
  | some bytes => be1 1 ++ bytes
  | none => be1 0

/-- The data a status carries in the payload (R152). -/
def Status.data : Status → List Byte
  | .pending edges => be2 edges
  | .version => be1 1
  | .badValue index => be1 index
  | .tooLate cycle => optItem (cycle.map fun c => be4 c.toNat)
  | .planInvalid check subject => be1 check.code ++ orFF subject
  | _ => []

/-! ## CRCs (R170, R175) -/

/-- One shift of the 16-bit register. -/
def crc16Shift (r : W16) : W16 := if r.msb then (r <<< 1) ^^^ 0x1021#16 else r <<< 1

/-- The 16-bit register after one byte. -/
def crc16Byte (r : W16) (b : Byte) : W16 :=
  Nat.repeat crc16Shift 8 (r ^^^ (b.setWidth 16 <<< 8))

/-- The frame CRC over bytes (R170). -/
def crc16 (bytes : List Byte) : W16 := bytes.foldl crc16Byte 0xFFFF#16

/-- One shift of the 32-bit register, reflected polynomial 0x04C11DB7. -/
def crc32Shift (r : W32) : W32 := if r.getLsbD 0 then (r >>> 1) ^^^ 0xEDB88320#32 else r >>> 1

/-- The 32-bit register after one byte. -/
def crc32Byte (r : W32) (b : Byte) : W32 := Nat.repeat crc32Shift 8 (r ^^^ b.setWidth 32)

/-- The body CRC over bytes (R175). -/
def crc32 (bytes : List Byte) : W32 := bytes.foldl crc32Byte 0xFFFFFFFF#32 ^^^ 0xFFFFFFFF#32

/-! ## Entry and window records (R172) -/

/-- An entry record's fields before their ranges are checked. -/
structure RawEntry where
  id : Nat
  offset : Nat
  channel : Nat
  action : Nat
  width : Option Nat
  rep : Option (Nat × Nat)
  every : Option (Nat × Nat)
  gate : Option (Nat × Nat)
deriving DecidableEq, Repr

/-- Read an entry record; a presence byte with a bit that stands for no group forms none (R172). -/
def readRawEntry (bs : List Byte) : Option (RawEntry × List Byte) := do
  let (id, r) ← read1 bs
  let (offset, r) ← read3 r
  let (channel, r) ← read1 r
  let (action, r) ← read1 r
  let (presence, r) ← read1 r
  let (width, r) ← readIf (presence.testBit 0) read2 r
  let (rep, r) ← readIf (presence.testBit 1) (readBoth read1 read2) r
  let (every, r) ← readIf (presence.testBit 2) (readBoth read1 read1) r
  let (gate, r) ← readIf (presence.testBit 3) (readBoth read1 read1) r
  if presence < 16 then some (⟨id, offset, channel, action, width, rep, every, gate⟩, r) else none

/-- The action with its width, checked as R29 lists fields 4 and 5. -/
def checkAction (code : Nat) (width : Option Nat) : Except Nat Action :=
  match code, width with
  | 0, none => .ok .on
  | 1, none => .ok .off
  | 2, none => .ok .flip
  | 3, some w => if 1 ≤ w ∧ w ≤ 65535 then .ok (.pulse w) else .error 5
  | 0, some _ => .error 5
  | 1, some _ => .error 5
  | 2, some _ => .error 5
  | 3, none => .error 5
  | _, _ => .error 4

/-- The repeat group, fields 6 and 7 of R29. -/
def checkRepeat : Option (Nat × Nat) → Except Nat (Option Repeat)
  | none => .ok none
  | some (count, spacing) =>
    if ¬ (2 ≤ count ∧ count ≤ 64) then .error 6
    else if ¬ (2 ≤ spacing ∧ spacing ≤ 65535) then .error 7
    else .ok (some ⟨count, spacing⟩)

/-- The every group, fields 8 and 9 of R29. -/
def checkEvery : Option (Nat × Nat) → Except Nat (Option Every)
  | none => .ok none
  | some (divider, remainder) =>
    if ¬ (2 ≤ divider ∧ divider ≤ 255) then .error 8
    else if ¬ remainder < divider then .error 9
    else .ok (some ⟨divider, remainder⟩)

/-- The gate group, fields 10 and 11 of R29. -/
def checkGate : Option (Nat × Nat) → Except Nat (Option Gate)
  | none => .ok none
  | some (input, level) =>
    match finOfCode 4 input, wireOfCode level with
    | none, _ => .error 10
    | some _, none => .error 11
    | some i, some l => .ok (some ⟨i, l⟩)

/-- The entry whose fields are all in range, or the lowest failing index (R25, R29). -/
def RawEntry.check (e : RawEntry) : Except Nat Entry :=
  if ¬ (1 ≤ e.id ∧ e.id ≤ 255) then .error 1
  else if ¬ e.offset ≤ 16777214 then .error 2
  else
    match finOfCode 8 e.channel with
    | none => .error 3
    | some channel => do
      let action ← checkAction e.action e.width
      let rep ← checkRepeat e.rep
      let every ← checkEvery e.every
      let gate ← checkGate e.gate
      .ok ⟨e.id, e.offset, channel, action, rep, every, gate⟩

/-- The width bytes of an entry record. -/
def Action.widthBytes : Action → List Byte
  | .pulse w => be2 w
  | _ => []

/-- The presence byte of an entry record. -/
def Entry.presence (e : Entry) : Nat :=
  (match e.action with | .pulse _ => 1 | _ => 0) + (if e.rep.isSome then 2 else 0) +
    (if e.every.isSome then 4 else 0) + (if e.gate.isSome then 8 else 0)

/-- An entry as its record (R172). -/
def Entry.bytes (e : Entry) : List Byte :=
  be1 e.id ++ be3 e.offset ++ be1 e.channel.val ++ be1 e.action.code ++ be1 e.presence ++ e.action.widthBytes ++
    (match e.rep with | some r => be1 r.count ++ be2 r.spacing | none => []) ++
    (match e.every with | some v => be1 v.divider ++ be1 v.remainder | none => []) ++
    (match e.gate with | some g => be1 g.input.val ++ be1 (wireCode g.level) | none => [])

/-- A window record's fields before their ranges are checked. -/
structure RawWindow where
  id : Nat
  input : Nat
  edge : Nat
  openAt : Nat
  closeAt : Nat
  policy : Nat
deriving DecidableEq, Repr

/-- Read a window record. -/
def readRawWindow (bs : List Byte) : Option (RawWindow × List Byte) := do
  let (id, r) ← read1 bs
  let (input, r) ← read1 r
  let (edge, r) ← read1 r
  let (openAt, r) ← read3 r
  let (closeAt, r) ← read3 r
  let (policy, r) ← read1 r
  some (⟨id, input, edge, openAt, closeAt, policy⟩, r)

/-- The window whose fields are all in range, or the lowest failing index (R32). -/
def RawWindow.check (w : RawWindow) : Except Nat Window :=
  if ¬ (1 ≤ w.id ∧ w.id ≤ 15) then .error 1
  else
    match finOfCode 4 w.input with
    | none => .error 2
    | some input =>
      match slopeOfCode w.edge with
      | none => .error 3
      | some edge =>
        if ¬ w.openAt ≤ 16777214 then .error 4
        else if ¬ (1 ≤ w.closeAt ∧ w.closeAt ≤ 16777215) then .error 5
        else
          match Policy.ofCode w.policy with
          | none => .error 6
          | some policy => .ok ⟨w.id, input, edge, w.openAt, w.closeAt, policy⟩

/-- A window as its record (R172). -/
def Window.bytes (w : Window) : List Byte :=
  be1 w.id ++ be1 w.input.val ++ be1 (slopeCode w.edge) ++ be3 w.openAt ++ be3 w.closeAt ++ be1 w.policy.code

/-! ## The serialized plan (R174) -/

/-- The cycle block's bytes 1 to 12. -/
def CycleBlock.bytes (c : CycleBlock) : List Byte :=
  be1 c.source.code ++ be3 c.length ++ be3 c.guard ++ be1 c.startInput.val ++ be1 c.startEdge.code ++
    be2 c.starveLimit ++ be1 c.starvePolicy.code

/-- A channel record's byte: bit 0 sense, bit 1 use. -/
def ChannelCfg.byte (c : ChannelCfg) : Byte :=
  BitVec.ofNat 8 (c.sense.code + (match c.use with | .used => 2 | .unused => 0))

/-- An input record's byte: bits 0 to 3 depth, bits 4 and 5 capture edges. -/
def InputCfg.byte (c : InputCfg) : Byte := BitVec.ofNat 8 (c.depth + 16 * c.capture.code)

/-- Bytes 1 to 26 of the fixed part, which PLAN_READ returns too (R174). -/
def Plan.fixedBytes (p : Plan) : List Byte :=
  p.cycle.bytes ++ p.channels.cells.map ChannelCfg.byte ++ p.inputs.cells.map InputCfg.byte ++
    be1 p.entries.length ++ be1 p.windows.length

/-- A plan as a PROFILE body (R174): the windows in the table's order, which every operation keeps the order of id (R32). -/
def Plan.bytes (p : Plan) : List Byte :=
  be1 1 ++ p.fixedBytes ++ List.replicate 37 0xFF#8 ++ (p.entries.map Entry.bytes).flatten ++
    (p.windows.map Window.bytes).flatten

/-- The value of a checked field, its index dropped: a stored field out of its request's range is bad (R175). -/
def okOnly {α : Type} : Except Nat α → Option α
  | .ok a => some a
  | .error _ => none

/-- Read a stored cycle block, each field in the range PLAN_SET_CYCLE checks (R26, R175; entry 16). -/
def readCycleBlock (bs : List Byte) : Option (CycleBlock × List Byte) := do
  let (source, r) ← read1 bs
  let (length, r) ← read3 r
  let (guard, r) ← read3 r
  let (startInput, r) ← read1 r
  let (startEdge, r) ← read1 r
  let (starveLimit, r) ← read2 r
  let (starvePolicy, r) ← read1 r
  let source ← Source.ofCode source
  let startInput ← finOfCode 4 startInput
  let startEdge ← StartEdge.ofCode startEdge
  let starvePolicy ← Policy.ofCode starvePolicy
  if 100 ≤ length then some (⟨source, length, guard, startInput, startEdge, starveLimit, starvePolicy⟩, r) else none

/-- Read a stored channel record; bits above 1 stand for no field (entry 17). -/
def readChannelCfg : List Byte → Option (ChannelCfg × List Byte)
  | b :: r =>
    some (⟨if b.getLsbD 0 then .activeLow else .activeHigh, if b.getLsbD 1 then .used else .unused⟩, r)
  | [] => none

/-- Read a stored input record; bits 6 and 7 stand for no field (entry 17). -/
def readInputCfg : List Byte → Option (InputCfg × List Byte)
  | b :: r => (CaptureEdges.ofCode (b.toNat / 16 % 4)).map fun c => (⟨b.toNat % 16, c⟩, r)
  | [] => none

/-- Read a row of a fixed number of like things. -/
def readRow {α : Type} (n : Nat) (rd : List Byte → Option (α × List Byte)) (bs : List Byte) :
    Option (Row n α × List Byte) :=
  (readMany rd n bs).bind fun p => if h : p.1.length = n then some (⟨p.1, h⟩, p.2) else none

/-- Read one erased byte. -/
def readErased : List Byte → Option (Unit × List Byte)
  | b :: r => if b = 0xFF#8 then some ((), r) else none
  | [] => none

/-- Read a stored entry record. -/
def readEntry (bs : List Byte) : Option (Entry × List Byte) :=
  (readRawEntry bs).bind fun p => (okOnly p.1.check).map fun e => (e, p.2)

/-- Read a stored window record. -/
def readWindow (bs : List Byte) : Option (Window × List Byte) :=
  (readRawWindow bs).bind fun p => (okOnly p.1.check).map fun w => (w, p.2)

/-- Put a window in a table that is kept in ascending order of id (R32), behind one with the same id. -/
def insertWindow (w : Window) : List Window → List Window
  | [] => [w]
  | x :: rest => if x.id ≤ w.id then x :: insertWindow w rest else w :: x :: rest

/-- A window table of some windows: in ascending order of id (R32), those with one id in the order they came in. -/
def windowTable (windows : List Window) : List Window := windows.foldl (fun acc w => insertWindow w acc) []

/-- The plan a PROFILE body holds, or none where a load finds it RECORD_BAD (R116, R175). The entries are taken in their
stored order (R36) and the windows in order of id (R32, R174). DESIGN CHOICE, unsafe (entry 39): a body whose window
records stand in another order, or that repeats an id, is read, for R175 names no check of that. -/
def Plan.ofBytes (bs : List Byte) : Option Plan := do
  let (format, r) ← read1 bs
  let (cycle, r) ← readCycleBlock r
  let (channels, r) ← readRow 8 readChannelCfg r
  let (inputs, r) ← readRow 4 readInputCfg r
  let (entryCount, r) ← read1 r
  let (windowCount, r) ← read1 r
  let (_, r) ← readMany readErased 37 r
  let (entries, r) ← readMany readEntry entryCount r
  let (windows, r) ← readMany readWindow windowCount r
  if format = 1 ∧ entryCount ≤ 64 ∧ windowCount ≤ 8 ∧ r = [] then
    some ⟨cycle, channels, inputs, entries, windowTable windows⟩
  else none

/-! ## Records the part reports (R173) -/

/-- A capture record's 16 bytes. -/
def CaptureRecord.bytes (c : CaptureRecord) : List Byte :=
  be2 c.seq.toNat ++ be1 c.input.val ++ be1 (slopeCode c.edge) ++ be4 c.cycle.toNat ++ be3 c.phase ++ be1 c.timing.code ++
    be1 c.role.code ++ be1 (c.window.getD 0) ++ be2 (c.loss.getD 0)

/-- A halt record's 9 bytes. -/
def HaltRecord.bytes (h : HaltRecord) : List Byte :=
  be1 h.cause.code ++ be4 h.cycle.toNat ++ be3 h.phase ++ orFF h.subject

/-- The code of a merging kind: its position in the table of 10 section 10.5 (R172). -/
def MergeKind.code : MergeKind → Nat
  | .cycleCut => 1
  | .earlyStart _ => 2
  | .starved => 3
  | .windowMissed _ => 4
  | .captureLevel => 5
  | .captureLoss _ => 6

/-- The subject of a merging kind. -/
def MergeKind.subject : MergeKind → Option Nat
  | .earlyStart i => some i.val
  | .windowMissed id => some id
  | .captureLoss i => some i.val
  | _ => none

/-- The code of a non-merging kind. -/
def Report.code : Report → Nat
  | .halted _ => 8
  | .committed _ => 9
  | .storeDone _ _ _ => 10
  | .startup _ _ _ _ _ => 11

/-- The code of an occurrence's kind. -/
def Occurrence.code : Occurrence → Nat
  | .merging kind _ => kind.code
  | .report r => r.code

/-- The payload of a non-merging kind (R173). -/
def Report.bytes : Report → List Byte
  | .halted record => record.bytes
  | .committed cycle => be1 (yesNo cycle.isSome) ++ be4 (cycle.getD 0).toNat
  | .storeDone op result compacted =>
    be1 op.code ++ orFF (op.slot.map Fin.val) ++ be1 result.code ++ be1 (yesNo compacted)
  | .startup cause scan slot boot auto =>
    be1 cause.code ++ be1 (yesNo scan.readOnly) ++ be2 scan.repairs ++ be2 scan.corrupt ++ be1 (yesNo scan.formatted) ++
      orFF (slot.map Fin.val) ++ be1 boot.code ++ be1 auto.code

/-- The kind code of a notice entry; NOTICE_LOSS is 7. -/
def Content.code : Content → Nat
  | .merging kind _ _ => kind.code
  | .loss _ => 7
  | .report r => r.code

/-- The subject byte of a notice body. -/
def Content.subject : Content → Option Nat
  | .merging kind _ _ => kind.subject
  | _ => none

/-- First and last cycle of a notice body: 0 for kinds that are not cycle-bound. -/
def Content.cycles : Content → List Byte
  | .merging _ first last => be4 first.toNat ++ be4 last.toNat
  | _ => be4 0 ++ be4 0

/-- The payload behind a notice header. -/
def Content.payload : Content → List Byte
  | .merging _ _ _ => []
  | .loss lastKind => be1 lastKind
  | .report r => r.bytes

/-- A notice body: 17 bytes of header and the payload (R173). -/
def Notice.body (n : Notice) : List Byte :=
  be1 3 ++ be2 n.number ++ be1 n.content.code ++ orFF n.content.subject ++ be2 n.count ++ n.content.cycles ++
    be2 n.origin ++ n.content.payload

/-! ## Bodies and frames (R169, R171) -/

/-- The body of a request frame. -/
def requestBody (code : Nat) (q : Req) : List Byte := be1 1 ++ [q.tag] ++ be1 code ++ q.params

/-- The body of an acknowledgement frame. -/
def ackBody (number : W16) : List Byte := be1 4 ++ be2 number.toNat

/-- A reply's body. -/
def Reply.body (r : Reply) : List Byte :=
  be1 2 ++ [r.tag, r.code] ++ be1 r.status.code ++ be1 (yesNo r.repeated) ++ r.status.data ++ r.payload

/-- A body's frame: SYNC, LEN, body, CRC over LEN and body (R169, R170). -/
def frameOf (body : List Byte) : List Byte :=
  0xD5#8 :: (be1 body.length ++ body ++ be2 (crc16 (be1 body.length ++ body)).toNat)

end Sys2Proof.Machine
end

