-- ==== Sys2Proof/Machine/Ops.lean ====
section
/-! DEFINITION. Named operations over the media and over the parts of State that several blocks share. -/

namespace Sys2Proof.Machine

/-! ## The media (R100) -/

/-- What a byte of the media that nothing has programmed reads as: all ones (R100). -/
def erased : Byte := 0xFF#8

/-- The first address of a bank. -/
def Bank.base : Bank → Nat
  | .a => 0
  | .b => Config.bankSize

/-- The other bank. -/
def Bank.other : Bank → Bank
  | .a => .b
  | .b => .a

/-- Read one byte. -/
def Media.read (m : Media) (addr : Nat) : Byte := (m.lookup addr).getD erased

/-- Put one byte, keeping addresses rising and erased bytes unlisted. -/
def Media.put : Media → Nat → Byte → Media
  | [], addr, v => if v = erased then [] else [(addr, v)]
  | (k, x) :: rest, addr, v =>
    if addr < k then (if v = erased then (k, x) :: rest else (addr, v) :: (k, x) :: rest)
    else if addr = k then (if v = erased then rest else (k, v) :: rest)
    else (k, x) :: Media.put rest addr v

/-- Every address of the media lies in the two banks. -/
def Media.addresses (m : Media) : Bool := m.all fun c => decide (c.1 < 2 * Config.bankSize)

/-- The canonical form: addresses strictly rising, inside the two banks, no erased byte listed. -/
def Media.wf (m : Media) : Bool :=
  decide (m.Pairwise fun x y => x.1 < y.1) && m.all (fun c => decide (c.2 ≠ erased)) && m.addresses

/-- Put each of some bytes from an address on. -/
def Media.putAll : Media → Nat → List Byte → Media
  | m, _, [] => m
  | m, addr, v :: vs => Media.putAll (m.put addr v) (addr + 1) vs

/-- Read some bytes from an address on. -/
def Media.readMany (m : Media) (addr : Nat) : Nat → List Byte
  | 0 => []
  | n + 1 => m.read addr :: Media.readMany m (addr + 1) n

/-- Read some bytes of a bank. -/
def Media.slice (m : Media) (bank : Bank) (offset n : Nat) : List Byte := m.readMany (bank.base + offset) n

/-- The byte a list of cells gives for an address, or a default. -/
def cellOr (cells : List Host.Cell) (dflt : Byte) (addr : Nat) : Byte := (cells.lookup addr).getD dflt

/-- Programming ANDs the data into the cells, except for the bits `undone` lists, which keep their old value
(all bits done when nothing is listed) (R100). -/
def Media.program (m : Media) (undone : List Host.Cell) : Nat → List Byte → Media
  | _, [] => m
  | addr, v :: vs =>
    Media.program (m.put addr (m.read addr &&& (v ||| cellOr undone 0 addr))) undone (addr + 1) vs

/-- Whether an address lies in a bank. -/
def Bank.has (bank : Bank) (addr : Nat) : Bool :=
  decide (bank.base ≤ addr ∧ addr < bank.base + Config.bankSize)

/-- An erase returns a bank's cells to ones, except for the bits `undone` lists, which keep their old value (R100). -/
def Media.erase (m : Media) (undone : List Host.Cell) (bank : Bank) : Media :=
  (m.filter fun c => bank.has c.1).foldl
    (fun acc c => acc.put c.1 (c.2 ||| ~~~ (cellOr undone 0 c.1)))
    (m.filter fun c => !bank.has c.1)

/-- Cells as a program step that fails can leave them: no bit that was zero is one (R100, R102; entry 9). -/
def Media.onlyClears (m : Media) (faults : List Host.Cell) : List Host.Cell :=
  faults.map fun c => (c.1, m.read c.1 &&& c.2)

/-- Force the cells that a list names, where they lie in a range of addresses: media that read back wrong (R100). -/
def Media.force (m : Media) (lo n : Nat) (faults : List Host.Cell) : Media :=
  faults.foldl (fun acc c => if lo ≤ c.1 ∧ c.1 < lo + n then acc.put c.1 c.2 else acc) m

/-! ## Shared reads of State -/

/-- The filtered STOP line is asserted: low (R74, 01 section 1.6). -/
def State.stopAsserted (s : State) : Bool := decide (s.filters.stop.level = .low)

/-- ARMED, CYCLING and WAITING are the running states (01 section 1.2). -/
def Mode.running : Mode → Bool
  | .armed => true
  | .cycling => true
  | .waiting => true
  | .idle => false
  | .halted => false

/-- The supply is good and no reset is under way: the blocks take happenings, and from here on the link is up, since
stages 1 and 2 belong to the end of the reset (R123, R126, R134). -/
def State.live (s : State) : Bool := s.startup.powered && decide (s.startup.stage ≠ .inReset)

/-- The active plan's cycle block. -/
def State.block (s : State) : CycleBlock := s.plans.active.cycle

/-- A wait of some milliseconds is over after so many ticks. -/
def timeUp (elapsed ms : Nat) : Bool := decide (ms * Config.ticksPerMs ≤ elapsed)

/-- The plan has a USED channel or a window (R12). -/
def Plan.hasWork (p : Plan) : Bool :=
  p.channels.cells.any (fun c => decide (c.use = .used)) || !p.windows.isEmpty

end Sys2Proof.Machine
end

