-- ==== Sys2Proof/Machine/Checks.lean ====
section
/-! DEFINITION. The commit checks (R40 to R43) and the expansion into a timeline (R45). -/

namespace Sys2Proof.Machine

/-- The number of occurrences of an entry and their spacing. -/
def Entry.repetition (e : Entry) : Nat × Nat :=
  match e.rep with
  | some r => (r.count, r.spacing)
  | none => (1, 0)

/-- The phase of occurrence `k` (R41). -/
def Entry.phaseOf (e : Entry) (k : Nat) : Nat := e.offset + k * e.repetition.2

/-- The occurrences of an entry: their numbers. -/
def Entry.occurrences (e : Entry) : List Nat := List.range e.repetition.1

/-- The phases of the edges of occurrence `k`: one, or start and end (R42). -/
def Entry.edgePhases (e : Entry) (k : Nat) : List Nat :=
  match e.action with
  | .pulse w => [e.phaseOf k, e.phaseOf k + w]
  | _ => [e.phaseOf k]

/-- A phase lies from the start to the end of a pulse. -/
def inPulse (x : Nat) : List Nat → Bool
  | [start, stop] => decide (start ≤ x ∧ x ≤ stop)
  | _ => false

/-- Two different occurrences on one channel come too close (R42). -/
def tooClose (a b : List Nat) : Bool :=
  a.any (fun x => b.any fun y => decide (x < y + 2 ∧ y < x + 2)) ||
    a.any (fun x => inPulse x b) || b.any (fun y => inPulse y a)

/-- Some occurrence comes too close to one before it, given those already laid down. -/
def clashes : List (List Nat) → List (List Nat) → Bool
  | _, [] => false
  | seen, o :: rest => seen.any (tooClose o) || clashes (o :: seen) rest

/-- The first entry in staged order that fails EDGE_SPACING, given the occurrences laid down before (R42). -/
def firstTooClose : List (Fin 8 × List Nat) → List Entry → Option Nat
  | _, [] => none
  | seen, e :: rest =>
    let own := e.occurrences.map e.edgePhases
    if clashes ((seen.filter fun o => decide (o.1 = e.channel)).map Prod.snd) own then some e.id
    else firstTooClose (seen ++ own.map fun o => (e.channel, o)) rest

/-- How many edges an entry counts (R43). -/
def Entry.edgeCount (e : Entry) : Nat :=
  match e.action with
  | .pulse _ => 2 * e.repetition.1
  | _ => e.repetition.1

/-- The first entry whose edges carry the running total past the budget (R43). -/
def firstOverBudget : Nat → List Entry → Option Nat
  | _, [] => none
  | total, e :: rest =>
    if Config.edgeBudget < total + e.edgeCount then some e.id else firstOverBudget (total + e.edgeCount) rest

/-- An occurrence lies at or past the length (R41, OFFSET_RANGE). -/
def Entry.outside (length : Nat) (e : Entry) : Bool :=
  e.occurrences.any fun k => decide (length ≤ e.phaseOf k)

/-- A PULSE occurrence ends past the last phase (R41, PULSE_END). -/
def Entry.endsLate (length : Nat) (e : Entry) : Bool :=
  match e.action with
  | .pulse w => e.occurrences.any fun k => decide (length - 1 < e.phaseOf k + w)
  | _ => false

/-- A window's open is not below its close, or its close is past the length (R40, WINDOW_RANGE). -/
def Window.bad (length : Nat) (w : Window) : Bool := decide (w.closeAt ≤ w.openAt ∨ length < w.closeAt)

/-- A failure that an entry or a window caused. -/
def failedBy (check : Check) (id : Option Nat) : Option (Check × Option Nat) := id.map fun k => (check, some k)

/-- A failure of the cycle block. -/
def failedIf (check : Check) (b : Bool) : Option (Check × Option Nat) := if b then some (check, none) else none

/-- The commit checks: the first failure with its subject, or none (R40). -/
def Plan.failure (p : Plan) : Option (Check × Option Nat) :=
  (failedIf .cycleRange (decide (p.cycle.length < p.cycle.guard))).or <|
  (failedIf .startEdge (decide (p.cycle.source = .triggered ∧ p.cycle.startEdge = .none))).or <|
  (failedBy .offsetRange ((p.entries.find? (Entry.outside p.cycle.length)).map Entry.id)).or <|
  (failedBy .pulseEnd ((p.entries.find? (Entry.endsLate p.cycle.length)).map Entry.id)).or <|
  (failedBy .channelUnused
    ((p.entries.find? fun e => decide ((p.channels.get e.channel).use = .unused)).map Entry.id)).or <|
  (failedBy .edgeSpacing (firstTooClose [] p.entries)).or <|
  (failedBy .edgeBudget (firstOverBudget 0 p.entries)).or <|
  (failedBy .windowRange ((p.windows.find? (Window.bad p.cycle.length)).map Window.id))

/-- The edges of one occurrence (R45). -/
def Entry.edgesOf (e : Entry) (k : Nat) : List TEdge :=
  let edge (phase : Nat) (change : Change) (role : Role) : TEdge :=
    ⟨phase, e.channel, change, role, e.id, k, e.every, e.gate⟩
  match e.action with
  | .on => [edge (e.phaseOf k) .toActive .single]
  | .off => [edge (e.phaseOf k) .toInactive .single]
  | .flip => [edge (e.phaseOf k) .flip .single]
  | .pulse w => [edge (e.phaseOf k) .toActive .pulseStart, edge (e.phaseOf k + w) .toInactive .pulseEnd]

/-- All the edges of an entry. -/
def Entry.edges (e : Entry) : List TEdge := (e.occurrences.map e.edgesOf).flatten

/-- The timeline's order: by phase, then by channel (R45). -/
def TEdge.before (x y : TEdge) : Bool :=
  decide (x.phase < y.phase ∨ (x.phase = y.phase ∧ x.channel.val < y.channel.val))

/-- Put an edge behind every edge that does not come after it. -/
def insertEdge (x : TEdge) : List TEdge → List TEdge
  | [] => [x]
  | y :: rest => if x.before y then x :: y :: rest else y :: insertEdge x rest

/-- The timeline a plan expands into (R45). -/
def Plan.expand (p : Plan) : List TEdge :=
  ((p.entries.map Entry.edges).flatten).foldl (fun acc x => insertEdge x acc) []

end Sys2Proof.Machine
end

