-- ==== Sys2Proof/Machine/Outputs.lean ====
section
/-! DEFINITION. The Output Drivers (03 sections 3.2 to 3.4): the claims that meet on a channel. -/

namespace Sys2Proof.Machine

/-- The level a line shows for a channel, or none when the channel does not drive it (R61). -/
def Channel.line (c : Channel) : Option Wire :=
  match c.drive, c.sense, c.level with
  | .highZ, _, _ => none
  | .driven, .activeHigh, .active => some .high
  | .driven, .activeHigh, .inactive => some .low
  | .driven, .activeLow, .active => some .low
  | .driven, .activeLow, .inactive => some .high

/-- The level after a timeline claim; with the STOP line asserted each claim is one for INACTIVE (R62). -/
def Change.onto (stop : Bool) (change : Change) (level : Level) : Level :=
  if stop then .inactive
  else
    match change, level with
    | .toActive, _ => .active
    | .toInactive, _ => .inactive
    | .flip, .active => .inactive
    | .flip, .inactive => .active

/-- Change one channel. -/
def State.onChannel (s : State) (c : Fin 8) (f : Channel → Channel) : State :=
  { s with channels := s.channels.modify c f }

/-- Change every channel. -/
def State.onChannels (s : State) (f : Channel → Channel) : State :=
  { s with channels := s.channels.mapIdx fun _ => f }

/-- A timeline edge reaches a channel (R62). -/
def State.claim (s : State) (c : Fin 8) (change : Change) : State :=
  s.onChannel c fun ch => { ch with level := change.onto s.stopAsserted ch.level }

/-- The halt claim on a channel (R70). -/
def Channel.halted (c : Channel) : Channel :=
  match c.hold with
  | .free => { c with level := .inactive }
  | .held => c

/-- The assertion of the STOP line on a channel (R71). -/
def Channel.stopped (c : Channel) : Channel := { c with level := .inactive, manual := none }

/-- The drive of a channel that is not held (R61). -/
def Use.drive : Use → Drive
  | .used => .driven
  | .unused => .highZ

/-- A swap's channel record on a channel (R63). -/
def Channel.swapped (cfg : ChannelCfg) (c : Channel) : Channel :=
  if c.sense = cfg.sense ∧ c.use = cfg.use then c
  else
    match c.hold with
    | .free => { c with sense := cfg.sense, use := cfg.use, level := .inactive, drive := cfg.use.drive }
    | .held => { c with sense := cfg.sense, use := cfg.use }

/-- Stage 5 of start-up on a channel (R64). -/
def Channel.applied (cfg : ChannelCfg) : Channel :=
  ⟨cfg.sense, cfg.use, .inactive, cfg.use.drive, .free, none⟩

/-- CHANNEL_HOLD on a channel (R65). -/
def Channel.taken (c : Channel) : Channel :=
  match c.hold, c.use with
  | .held, _ => c
  | .free, .used => { c with hold := .held }
  | .free, .unused => { c with hold := .held, drive := .driven, level := .inactive }

/-- CHANNEL_RELEASE on a channel (R68). -/
def Channel.released (c : Channel) : Channel :=
  match c.hold with
  | .free => c
  | .held => { c with hold := .free, level := .inactive, manual := none, drive := c.use.drive }

/-- CHANNEL_SET on a held, idle channel (R66). -/
def Channel.setTo (level : Level) (c : Channel) : Channel := { c with level := level }

/-- CHANNEL_PULSE on a held, idle channel (R67). -/
def Channel.pulsed (width : Nat) (c : Channel) : Channel := { c with level := .active, manual := some width }

/-- The expiry of a manual pulse (R67). -/
def Channel.pulseOver (c : Channel) : Channel := { c with level := .inactive, manual := none }

/-- One tick of a manual pulse (R67). -/
def Channel.tick (c : Channel) : Channel := { c with manual := c.manual.map fun n => n - 1 }

/-- The Output Drivers take the active plan's channel block at a swap (R63). -/
def State.takeChannelBlock (s : State) (p : Plan) : State :=
  { s with channels := s.channels.mapIdx fun i c => c.swapped (p.channels.get i) }

/-- The Output Drivers take the active plan's channel block at stage 5 (R64, R129). -/
def State.applyChannelBlock (s : State) : State :=
  { s with channels := s.channels.mapIdx fun i _ => Channel.applied (s.plans.active.channels.get i) }

/-- The hold mask: bit n for OUTn (R172). -/
def State.holdMask (s : State) : Nat :=
  (List.ofFn fun i : Fin 8 => if (s.channels.get i).hold = .held then 2 ^ i.val else 0).sum

end Sys2Proof.Machine
end

