-- ==== Sys2Proof/Machine/Timeline.lean ====
section
/-! DEFINITION. The Timeline Engine (03 section 3.1): how an edge is decided, counted and applied, and truncation. -/

namespace Sys2Proof.Machine

/-- What the tests of R53 make of an edge. -/
inductive Verdict where
  | skipped
  | gatedOff
  | suppressed
  | applied
deriving DecidableEq, Repr

/-- The occurrence an edge belongs to. -/
def TEdge.pulseId (e : TEdge) : PulseId := ⟨e.entry, e.occurrence⟩

/-- The divider leaves the cycle number out (R54). -/
def TEdge.dividedOut (e : TEdge) (cycle : W32) : Bool :=
  match e.every with
  | some v => decide (cycle.toNat % v.divider ≠ v.remainder)
  | none => false

/-- The gate of an edge is not met by the filtered levels (R55). -/
def TEdge.gateUnmet (e : TEdge) (f : Filters) : Bool :=
  match e.gate with
  | some g => decide ((f.inputs.get g.input).level ≠ g.level)
  | none => false

/-- Decide an edge by the tests of R53, in their order. -/
def State.verdict (s : State) (e : TEdge) : Verdict :=
  if e.dividedOut s.seq.cycle then .skipped
  else if e.role = .pulseEnd ∧ s.timeline.marks.lookup e.pulseId = some .gated then .skipped
  else if e.role = .pulseEnd ∧ s.timeline.marks.lookup e.pulseId = some .suppressed then .suppressed
  else if e.role ≠ .pulseEnd ∧ e.gateUnmet s.filters = true then .gatedOff
  else if (s.channels.get e.channel).hold = .held then .suppressed
  else .applied

/-- Count a verdict on a channel (R53, R60). -/
def Verdict.count (v : Verdict) (t : ChannelTally) : ChannelTally :=
  match v with
  | .skipped => t
  | .gatedOff => { t with gatedOff := bump t.gatedOff }
  | .suppressed => { t with suppressed := bump t.suppressed }
  | .applied => { t with applied := bump t.applied }

/-- The mark a PULSE_START leaves on its occurrence (R53). -/
def Verdict.mark : Verdict → Option Mark
  | .gatedOff => some .gated
  | .suppressed => some .suppressed
  | _ => none

/-- The marks after an edge (R53). DESIGN CHOICE, unsafe (entry 46): a mark is kept under entry id and occurrence, so where a
loaded plan repeats an id (entry 39) the occurrences of its two entries share their marks. -/
def marksAfter (e : TEdge) (v : Verdict) (marks : List (PulseId × Mark)) : List (PulseId × Mark) :=
  match e.role, v.mark with
  | .pulseStart, some m => (e.pulseId, m) :: marks
  | _, _ => marks

/-- The pulse in progress of the edge's channel after it (R53, R57). -/
def pulseAfter (e : TEdge) (v : Verdict) (p : Option PulseId) : Option PulseId :=
  match e.role, v with
  | .pulseStart, .applied => some e.pulseId
  | .pulseEnd, .applied => if p = some e.pulseId then none else p
  | .pulseEnd, .suppressed => if p = some e.pulseId then none else p
  | _, _ => p

/-- The Timeline Engine's own part of taking an edge (R52, R53). -/
def Timeline.take (t : Timeline) (e : TEdge) (v : Verdict) : Timeline :=
  { t with
    next := t.next + 1
    marks := marksAfter e v t.marks
    pulses := t.pulses.modify e.channel (pulseAfter e v)
    tallies := t.tallies.modify e.channel v.count }

/-- Take one edge: decide, count, and hand it to the Output Drivers if it is applied (R53). -/
def State.takeEdge (s : State) (e : TEdge) : State :=
  let v := s.verdict e
  let t : State := { s with timeline := s.timeline.take e v }
  if v = .applied then t.claim e.channel e.change else t

/-- The edges at the next-edge position that lie at the present phase, in timeline order (R52). -/
def State.edgesHere (s : State) : List TEdge :=
  (s.timeline.edges.drop s.timeline.next).takeWhile fun e => decide (e.phase = s.seq.phase)

/-- Take every edge at the present phase (R52). -/
def State.takeEdgesHere (s : State) : State := s.edgesHere.foldl State.takeEdge s

/-- Truncation on one channel: its counter (R58). -/
def ChannelTally.truncate (p : Option PulseId) (t : ChannelTally) : ChannelTally :=
  if p.isSome then { t with truncated := bump t.truncated } else t

/-- Truncation on one channel: a FREE channel with a pulse in progress goes INACTIVE (R58). -/
def Channel.truncated (p : Option PulseId) (c : Channel) : Channel :=
  if p.isSome ∧ c.hold = .free then { c with level := .inactive } else c

/-- End every scheduled pulse in progress (R58). -/
def State.truncate (s : State) : State :=
  { s with
    channels := s.channels.mapIdx fun i c => c.truncated (s.timeline.pulses.get i)
    timeline :=
      { s.timeline with
        pulses := Row.fill 8 none
        tallies := s.timeline.tallies.mapIdx fun i t => t.truncate (s.timeline.pulses.get i) } }

/-- A new active timeline (R51). -/
def Timeline.replaced (t : Timeline) (edges : List TEdge) : Timeline :=
  { t with edges := edges, next := 0, marks := [] }

/-- The walk begins again at a cycle start (R52). -/
def Timeline.restarted (t : Timeline) : Timeline := { t with next := 0, marks := [] }

end Sys2Proof.Machine
end

