-- ==== Sys2Proof/Machine/Notices.lean ====
section
/-! DEFINITION. The Notice Queue (chapter 10): numbers, raising, merging, sending, expiry, acknowledgement. -/

namespace Sys2Proof.Machine

/-- The notice number after one: after 65,535 comes 1 (R160). -/
def numberAfter (n : Nat) : Nat := if 65535 ≤ n then 1 else n + 1

/-- The first number from one on that no entry carries, in at most so many skips (R160). -/
def freshFrom (used : List Nat) : Nat → Nat → Nat
  | 0, n => n
  | k + 1, n => if n ∈ used then freshFrom used k (numberAfter n) else n

/-- The fresh notice number. -/
def Notices.fresh (q : Notices) : Nat := freshFrom (q.entries.map Notice.number) q.entries.length q.next

/-- Whether an entry is the NOTICE_LOSS entry. -/
def Notice.isLoss (n : Notice) : Bool :=
  match n.content with
  | .loss _ => true
  | _ => false

/-- Whether an entry is of a merging kind and subject. -/
def Notice.holds (kind : MergeKind) (n : Notice) : Bool :=
  match n.content with
  | .merging k _ _ => decide (k = kind)
  | _ => false

/-- Fewer than 16 ordinary entries are present (R161, R162). -/
def Notices.hasPlace (q : Notices) : Bool :=
  decide ((q.entries.filter fun n => !n.isLoss).length < Config.noticePlaces)

/-- Create an entry, last in the queue's order, with a fresh number (R159, R161, R162). -/
def Notices.add (q : Notices) (content : Content) (merges : Bool) : Notices :=
  { q with
    entries := q.entries ++
      [{ number := q.fresh, content := content, count := 1, origin := if merges then q.fresh else 0,
         sent := false, shown := false, timer := none }]
    next := numberAfter q.fresh }

/-- Merge one more occurrence into an entry (R161): renumbered if its number has been shown, marked unsent, its count
raised, in its place. -/
def Notices.merge (q : Notices) (n : Notice) (content : Content) : Notices :=
  let number := if n.shown then q.fresh else n.number
  let merged : Notice :=
    { n with number := number, content := content, count := satSucc 65535 n.count, sent := false, shown := false }
  { q with
    entries := q.entries.map fun m => if m.number = n.number then merged else m
    next := if n.shown then numberAfter number else q.next }

/-- The NOTICE_LOSS entry takes an occurrence that found the ordinary places full (R163). -/
def Notices.lose (q : Notices) (o : Occurrence) : Notices :=
  match q.entries.find? Notice.isLoss with
  | some n => q.merge n (.loss o.code)
  | none => q.add (.loss o.code) true

/-- The content of a merging entry once it has taken an occurrence in a cycle: the last cycle changes (R161). -/
def Content.upTo (cycle : W32) : Content → Content
  | .merging kind first _ => .merging kind first cycle
  | c => c

/-- Take an occurrence (R161, R162). -/
def Notices.raise (q : Notices) (o : Occurrence) : Notices :=
  match o with
  | .merging kind cycle =>
    match q.entries.find? (Notice.holds kind) with
    | some n => q.merge n (n.content.upTo cycle)
    | none => if q.hasPlace then q.add (.merging kind cycle cycle) true else q.lose o
  | .report r => if q.hasPlace then q.add (.report r) false else q.lose o

/-- A block raises an occurrence. -/
def State.raise (s : State) (o : Occurrence) : State := { s with notices := s.notices.raise o }

/-- Change the entry that carries a number. -/
def Notices.change (q : Notices) (number : Nat) (f : Notice → Notice) : Notices :=
  { q with entries := q.entries.map fun n => if n.number = number then f n else n }

/-- The transmitter begins an entry's frame: sent, shown, timer stopped (R164). -/
def Notice.begun (n : Notice) : Notice := { n with sent := true, shown := true, timer := none }

/-- A frame's last byte has left: the timer of a still sent entry starts (R164). -/
def Notice.frameEnded (interval : Nat) (n : Notice) : Notice :=
  if n.sent then { n with timer := some ⟨0, interval⟩ } else n

/-- The resend timer runs out: a sent entry becomes unsent (R165). -/
def Notice.expired (n : Notice) : Notice := { n with timer := none, sent := false }

/-- The resend timer of an entry has run out. -/
def Notice.timerDue (n : Notice) : Bool :=
  match n.timer with
  | some t => timeUp t.elapsed t.interval
  | none => false

/-- A HELLO marks every entry unsent and hands over the resend interval (R153, R167). -/
def Notices.reopened (q : Notices) (interval : Nat) : Notices :=
  { q with entries := q.entries.map fun n => { n with sent := false }, resend := interval }

/-- An entry carries a number. -/
def Notices.carries (q : Notices) (number : Nat) : Bool := q.entries.any fun n => decide (n.number = number)

/-- Remove the entry that carries a number (R166). -/
def Notices.drop (q : Notices) (number : Nat) : Notices :=
  { q with entries := q.entries.filter fun n => decide (n.number ≠ number) }

/-- One tick of the resend timers. -/
def Notice.tick (n : Notice) : Notice :=
  { n with timer := n.timer.map fun t => { t with elapsed := t.elapsed + 1 } }

end Sys2Proof.Machine
end

