-- ==== Sys2Proof/Machine/Windows.lean ====
section
/-! DEFINITION. The Window Monitor (chapter 5): preparing, opening, meeting, closing and abandoning windows. -/

namespace Sys2Proof.Machine

/-- The place of a window id's counters. -/
def tallyIndex (id : Nat) : Option (Fin 15) :=
  if h : 1 ≤ id ∧ id ≤ 15 then some ⟨id - 1, by omega⟩ else none

/-- Change the counters of a window id. -/
def Monitor.countAt (m : Monitor) (id : Nat) (f : WindowTally → WindowTally) : Monitor :=
  match tallyIndex id with
  | some k => { m with tallies := m.tallies.modify k f }
  | none => m

/-- Change the counters of some window ids in turn. -/
def Monitor.countAll (m : Monitor) (ids : List Nat) (f : WindowTally → WindowTally) : Monitor :=
  ids.foldl (fun acc id => acc.countAt id f) m

def WindowTally.oneMet (t : WindowTally) : WindowTally := { t with met := bump t.met }

def WindowTally.oneMissed (t : WindowTally) : WindowTally := { t with missed := bump t.missed }

def WindowTally.oneCut (t : WindowTally) : WindowTally := { t with cut := bump t.cut }

/-- A window not yet settled (05, state table). -/
def WatchState.unsettled : WatchState → Bool
  | .pending => true
  | .opened => true
  | _ => false

/-- A new window table: every window PENDING with no first hit (R92). -/
def Monitor.withTable (m : Monitor) (windows : List Window) : Monitor :=
  { m with table := windows.map fun w => ⟨w, .pending, none⟩ }

/-- A cycle start prepares the windows (R93). -/
def Monitor.prepare (m : Monitor) : Monitor :=
  { m with table := m.table.map fun w => { w with state := .pending, hit := none }, inProgress := true }

/-- A window whose open is the present phase becomes OPEN if it is still PENDING (R93). -/
def Watch.openAt (phase : Nat) (w : Watch) : Watch :=
  if w.state = .pending ∧ w.window.openAt = phase then { w with state := .opened } else w

/-- Open the windows whose open is the present phase. -/
def Monitor.openHere (m : Monitor) (phase : Nat) : Monitor := { m with table := m.table.map (Watch.openAt phase) }

/-- An edge meets a window (R94). -/
def Watch.metBy (i : Fin 4) (d : Slope) (phase : Nat) (w : Watch) : Bool :=
  decide (w.window.input = i ∧ w.window.edge = d ∧ w.window.openAt ≤ phase ∧ phase < w.window.closeAt) &&
    w.state.unsettled

/-- The windows an edge meets, by id: none while no cycle is in progress (R93, R94). -/
def Monitor.metIds (m : Monitor) (i : Fin 4) (d : Slope) (phase : Nat) : List Nat :=
  if m.inProgress then (m.table.filter (Watch.metBy i d phase)).map fun w => w.window.id else []

/-- The Window Monitor takes an edge (R94). -/
def Monitor.meet (m : Monitor) (i : Fin 4) (d : Slope) (phase : Nat) : Monitor :=
  if m.inProgress then
    ({ m with
        table := m.table.map fun w =>
          if w.metBy i d phase then { w with state := .met, hit := some phase } else w } : Monitor).countAll
      (m.metIds i d phase) WindowTally.oneMet
  else m

/-- A window misses at a close (R96). -/
def Watch.missesAt (phase : Nat) (w : Watch) : Bool := decide (w.state = .opened ∧ w.window.closeAt = phase)

/-- The windows that miss at a close, in the table's order, which is the order of id (R32, R96). -/
def Monitor.missing (m : Monitor) (phase : Nat) : List Window :=
  (m.table.filter (Watch.missesAt phase)).map Watch.window

/-- The close of every window whose close is a phase: states and counters (R96). -/
def Monitor.close (m : Monitor) (phase : Nat) : Monitor :=
  ({ m with table := m.table.map fun w => if w.missesAt phase then { w with state := .missed } else w } : Monitor).countAll
    ((m.missing phase).map Window.id) WindowTally.oneMissed

/-- The close as one happening: states, counters and WINDOW_MISSED notices (R96); the reports are not sent here. -/
def State.closeWindows (s : State) (phase : Nat) : State :=
  (s.monitor.missing phase).foldl (fun acc w => acc.raise (.merging (.windowMissed w.id) s.seq.cycle))
    { s with monitor := s.monitor.close phase }

/-- The windows whose miss under policy HALT is reported, in the table's order, which is the order of id (R32, R96). -/
def Monitor.haltMisses (m : Monitor) (phase : Nat) : List Window :=
  (m.missing phase).filter fun w => decide (w.policy = .halt)

/-- Abandon the unsettled windows of the current cycle (R97). -/
def Monitor.abandon (m : Monitor) : Monitor :=
  if m.inProgress then
    ({ m with
        table := m.table.map fun w => if w.state.unsettled then { w with state := .abandoned } else w
        inProgress := false } : Monitor).countAll
      ((m.table.filter fun w => w.state.unsettled).map fun w => w.window.id) WindowTally.oneCut
  else m

end Sys2Proof.Machine
end

