-- ==== Sys2Proof/Machine/Cycles.lean ====
section
/-! DEFINITION. The Cycle Controller's shared operations (chapter 1) and the swap of the Plan Buffers (R47, R48): a
cycle start, entering HALTED, a RUN taken, the end of a cycle. -/

namespace Sys2Proof.Machine

/-- A swap: the staged plan becomes active and its parts go to their blocks (R47). The filters take the new depths in
the following tick (R75), when `Filter.tick` reads them. -/
def State.swap (s : State) : State :=
  State.takeChannelBlock
    { s with
      plans := { s.plans with active := s.plans.staged }
      timeline := s.timeline.replaced s.plans.stagedTimeline
      monitor := s.monitor.withTable s.plans.staged.windows }
    s.plans.staged

/-- A pending commit is swapped in, its outcome set and COMMITTED raised (R47, R48). -/
def State.swapPending (s : State) (cycle : Option W32) : State :=
  if s.plans.commitPending then
    let t := s.swap
    State.raise { t with plans := { t.plans with commitPending := false, outcome := .applied cycle } }
      (.report (.committed cycle))
  else s

/-- The wait timer at entry into ARMED or WAITING: started if the starve limit is nonzero (R11). -/
def State.freshWait (s : State) : Option Nat := if s.block.starveLimit = 0 then none else some 0

/-- Stages 1 to 5 of a cycle start (R5). -/
def Sequencer.begin (q : Sequencer) : Sequencer :=
  { q with
    mode := .cycling, phase := 0, cycle := q.cycle + 1, remaining := q.remaining.map fun n => n - 1,
    wait := none, endDue := false }

/-- A cycle start (R5). -/
def State.cycleStart (s : State) : State :=
  let numbered : State := { s with seq := s.seq.begin }
  let swapped := numbered.swapPending (some numbered.seq.cycle)
  let prepared : State :=
    { swapped with timeline := swapped.timeline.restarted, monitor := swapped.monitor.prepare }
  let edged := prepared.takeEdgesHere
  { edged with monitor := edged.monitor.openHere 0 }

/-- Stages 1 to 4 of entering HALTED (R16). -/
def Sequencer.stop (q : Sequencer) (record : HaltRecord) : Sequencer :=
  { q with
    mode := .halted, phase := 0, remaining := none, finish := false, halt := some record, wait := none,
    endDue := false }

/-- Entering HALTED (R16): the record carries the sequencer's cycle number (R17). -/
def State.enterHalted (s : State) (cause : HaltCause) (phase : Nat) (subject : Option Nat) : State :=
  let record : HaltRecord := ⟨cause, s.seq.cycle, phase, subject⟩
  let stopped : State := { s with seq := s.seq.stop record }
  let quiet := stopped.truncate.onChannels Channel.halted
  let left : State := { quiet with monitor := quiet.monitor.abandon }
  (left.swapPending none).raise (.report (.halted record))

/-- What a RUN that has passed its checks does (R12). -/
def State.startRun (s : State) (count : Nat) : State :=
  let cleared : State :=
    { s with
      seq :=
        { s.seq with
          halt := none, finish := false, cycle := if s.seq.mode = .idle then 0 else s.seq.cycle,
          remaining := if count = 0 then none else some count } }
  match s.block.source with
  | .internal => cleared.cycleStart
  | .triggered =>
    { cleared with
      seq := { cleared.seq with mode := .armed, phase := 0, wait := cleared.freshWait, endDue := false } }

/-- The Cycle Controller takes the report of a miss under policy HALT (R18). -/
def State.missReport (s : State) (w : Window) : State :=
  if s.seq.mode = .cycling then s.enterHalted .windowMiss w.closeAt (some w.id) else s

/-- The close of the windows at a phase with its reports, in order of id (R96). -/
def State.closeAndReport (s : State) (phase : Nat) : State :=
  (s.monitor.haltMisses phase).foldl State.missReport (s.closeWindows phase)

/-- Entry into WAITING (R7). -/
def State.enterWaiting (s : State) : State :=
  { s with
    seq := { s.seq with mode := .waiting, phase := s.block.length, wait := s.freshWait, endDue := false } }

/-- The end of a cycle once its windows are closed and none of them has halted the run (R6, R7). -/
def State.afterCloses (s : State) : State :=
  let s : State := { s with monitor := { s.monitor with inProgress := false } }
  if s.seq.finish then s.enterHalted .finished s.block.length none
  else if s.seq.remaining = some 0 then s.enterHalted .countDone s.block.length none
  else
    match s.block.source with
    | .internal => s.cycleStart
    | .triggered => s.enterWaiting

/-- The end of a cycle (R6, R7). -/
def State.endCycle (s : State) : State :=
  let closed := s.closeAndReport s.block.length
  if closed.seq.mode = .cycling then closed.afterCloses else closed

/-- A cut (R10). -/
def State.cut (s : State) : State :=
  let t := s.truncate
  let left : State := { t with monitor := t.monitor.abandon }
  let told := left.raise (.merging .cycleCut s.seq.cycle)
  if s.seq.finish then told.enterHalted .finished s.seq.phase none
  else if s.seq.remaining = some 0 then told.enterHalted .countDone s.seq.phase none
  else told.cycleStart

end Sys2Proof.Machine
end

