-- ==== Sys2Proof/Machine/Captures.lean ====
section
/-! DEFINITION. The Input Filters and the Capture Queue (chapter 4), and how the three blocks take an edge (R77). -/

namespace Sys2Proof.Machine

/-! ## Filters -/

/-- The table of R74: the candidate's age behind the sample `raw`, from its age before; the age stops at 16. -/
def Filter.compare (f : Filter) (raw : Wire) (before : Option Nat) : Option Nat :=
  if raw = f.level then none
  else
    match before with
    | none => some 0
    | some age => some (min Config.stopDepth (age + 1))

/-- The present tick's one sample is another raw level: it is compared with the candidate before this tick. Once this
tick's edge has been taken the sample is past, and the level meets the next tick's (R74; entries 28, 40). -/
def Filter.sample (f : Filter) (raw : Wire) : Filter :=
  { f with raw := raw, cand := if f.taken then f.cand else f.compare raw f.prior }

/-- One tick of a filter under the depth in force from this tick on: the line as it stands is the sample (R74, R75). -/
def Filter.tick (depth : Nat) (f : Filter) : Filter :=
  { f with depth := depth, cand := f.compare f.raw f.cand, prior := f.cand, taken := false }

/-- The candidate has reached the depth in force: the filtered level changes in this tick (R74, R75). -/
def Filter.due (f : Filter) : Bool :=
  match f.cand with
  | some age => decide (f.depth ≤ age)
  | none => false

/-- The direction of the change that is due. -/
def Filter.slope (f : Filter) : Slope :=
  match f.level with
  | .low => .rise
  | .high => .fall

/-- The edge is taken: the filtered level takes the candidate value, and the candidate is dropped (R74). -/
def Filter.settle (f : Filter) : Filter := { f with level := f.raw, cand := none, taken := true }

/-- Change the filter of one input. -/
def State.onInput (s : State) (i : Fin 4) (f : Filter → Filter) : State :=
  { s with filters := { s.filters with inputs := s.filters.inputs.modify i f } }

/-! ## The Cycle Controller takes an edge (R8 to R10) -/

/-- What the Cycle Controller makes of an edge (R79). -/
inductive Decision where
  | plain
  | started
  | early
  | cutStarted
  | cutHalted
deriving DecidableEq, Repr

/-- The start edge of the cycle block names a direction. -/
def StartEdge.names (e : StartEdge) (d : Slope) : Bool :=
  match e, d with
  | .rise, .rise => true
  | .fall, .fall => true
  | _, _ => false

/-- The edge is a start edge of a TRIGGERED plan (R8). -/
def State.isStart (s : State) (i : Fin 4) (d : Slope) : Bool :=
  decide (s.block.source = .triggered ∧ i = s.block.startInput) && s.block.startEdge.names d

/-- The Cycle Controller's decision on an edge (R8 to R10). -/
def State.decision (s : State) (i : Fin 4) (d : Slope) : Decision :=
  if s.isStart i d then
    match s.seq.mode with
    | .idle => .plain
    | .halted => .plain
    | .armed => .started
    | .waiting => .started
    | .cycling =>
      if s.seq.phase < s.block.guard then .early
      else if s.seq.finish = true ∨ s.seq.remaining = some 0 then .cutHalted
      else .cutStarted
  else .plain

/-- The early counter of an input (R9, R90). -/
def State.countEarly (s : State) (i : Fin 4) : State :=
  { s with
    captures :=
      { s.captures with tallies := s.captures.tallies.modify i fun t => { t with early := bump t.early } } }

/-- The Cycle Controller takes an edge (R8 to R10). -/
def State.controllerTakes (s : State) (i : Fin 4) (d : Slope) : State :=
  match s.decision i d with
  | .plain => s
  | .started => s.cycleStart
  | .early => (s.countEarly i).raise (.merging (.earlyStart i) s.seq.cycle)
  | .cutStarted => s.cut
  | .cutHalted => s.cut

/-- The Window Monitor takes an edge at the phase the sequencer shows (R94). -/
def State.monitorTakes (s : State) (i : Fin 4) (d : Slope) : State :=
  { s with monitor := s.monitor.meet i d s.seq.phase }

/-- The id the Window Monitor tells the Capture Queue: the lowest it met (R94). -/
def State.lowestMet (s : State) (i : Fin 4) (d : Slope) : Option Nat := (s.monitor.metIds i d s.seq.phase).min?

/-! ## The Capture Queue -/

/-- The capture selection names a direction (R78). -/
def CaptureEdges.names (c : CaptureEdges) (d : Slope) : Bool :=
  match c, d with
  | .both, _ => true
  | .rise, .rise => true
  | .fall, .fall => true
  | _, _ => false

/-- The timing of a record taken in a running state (R79). -/
def Mode.timing : Mode → Timing
  | .armed => .armed
  | .waiting => .waiting
  | _ => .inCycle

/-- The role of a record (R79). -/
def Decision.role : Decision → EdgeRole
  | .started => .start
  | .cutStarted => .start
  | .early => .early
  | _ => .none

/-- The edge started a cycle. -/
def Decision.starts : Decision → Bool
  | .started => true
  | .cutStarted => true
  | _ => false

/-- The level after a store equals the armed watermark (R85). -/
def Captures.fires (c : Captures) : Bool := c.armed && decide (c.records.length + 1 = c.watermark)

/-- Store a record (R82, R84, R85); its sequence and loss are given here. -/
def Captures.store (c : Captures) (r : CaptureRecord) : Captures :=
  { c with
    records := c.records ++
      [{ r with
          seq := c.nextSeq, loss := if c.loss.get r.input = 0 then none else some (c.loss.get r.input) }]
    nextSeq := c.nextSeq + 1
    loss := c.loss.set r.input 0
    armed := c.armed && !c.fires
    tallies := c.tallies.modify r.input fun t => { t with stored := bump t.stored } }

/-- Drop a record of an input (R83). -/
def Captures.dropOne (c : Captures) (i : Fin 4) : Captures :=
  { c with
    loss := c.loss.modify i (satSucc 65535)
    tallies := c.tallies.modify i fun t => { t with dropped := bump t.dropped } }

/-- A captured edge becomes a record, stored or dropped, with the notice that goes with it (R82, R83, R85). -/
def State.record (s : State) (r : CaptureRecord) : State :=
  if s.captures.records.length < Config.captureDepth then
    let t : State := { s with captures := s.captures.store r }
    if s.captures.fires then t.raise (.merging .captureLevel r.cycle) else t
  else
    State.raise { s with captures := s.captures.dropOne r.input } (.merging (.captureLoss r.input) r.cycle)

/-- After a removal the watermark arms if the level is below it (R85). -/
def Captures.rearm (c : Captures) : Captures :=
  { c with armed := c.armed || decide (c.records.length < c.watermark) }

/-- The record of an edge: what the Cycle Controller decided, from the states before and after it (R79). -/
def edgeRecord (before after : State) (i : Fin 4) (d : Slope) (window : Option Nat) : CaptureRecord :=
  let decided := before.decision i d
  { seq := 0, input := i, edge := d
    cycle := if decided.starts then after.seq.cycle else before.seq.cycle
    phase := if decided.starts then 0 else before.seq.phase
    timing := before.seq.mode.timing, role := decided.role, window := window, loss := none }

/-- Whether the Capture Queue captures an edge: taken in a running state, and named by the selection of the plan the
record belongs to (R78). -/
def captured (before after : State) (i : Fin 4) (d : Slope) : Bool :=
  let plan := if (before.decision i d).starts then after.plans.active else before.plans.active
  before.seq.mode.running && (plan.inputs.get i).capture.names d

/-- The Capture Queue takes an edge once the other two blocks have (R77, R78). -/
def State.captureEdge (before after : State) (i : Fin 4) (d : Slope) (window : Option Nat) : State :=
  if captured before after i d then after.record (edgeRecord before after i d window) else after

/-- The three blocks take an edge: the Window Monitor and the Cycle Controller in the order given, then the Capture
Queue (R77, R95). -/
def State.takeInputEdge (s : State) (i : Fin 4) (d : Slope) (monitorFirst : Bool) : State :=
  if monitorFirst then State.captureEdge s ((s.monitorTakes i d).controllerTakes i d) i d (s.lowestMet i d)
  else
    let led := s.controllerTakes i d
    State.captureEdge s (led.monitorTakes i d) i d (led.lowestMet i d)

end Sys2Proof.Machine
end

