-- ==== Sys2Proof/Machine/Flags.lean ====
section
/-! DEFINITION. When each happening of the present tick is due. An event's command takes effect only then (entry 5). -/

namespace Sys2Proof.Machine

/-- The frame assembler holds a complete frame that is to be checked (R136). -/
def Asm.complete (a : Asm) : Bool :=
  match a.state, a.expected with
  | .check, some n => decide (a.held.length = n + 3)
  | _, _ => false

/-- The end of the cycle is due (R1, R6, R7). -/
def State.cycleEndDue (s : State) : Bool := decide (s.seq.mode = .cycling) && s.seq.endDue

/-- The edge at the next-edge position lies at the present phase (R52). -/
def State.edgeDue (s : State) : Option TEdge :=
  if s.seq.mode = .cycling then
    match s.timeline.edges[s.timeline.next]? with
    | some e => if e.phase = s.seq.phase then some e else none
    | none => none
  else none

/-- A window opens at the present phase (R93). -/
def State.openDue (s : State) (id : Nat) : Bool :=
  decide (s.seq.mode = .cycling) && s.monitor.inProgress &&
    s.monitor.table.any fun w => decide (w.window.id = id ∧ w.state = .pending ∧ w.window.openAt = s.seq.phase)

/-- An OPEN window closes at the present phase (R96). -/
def State.closeDue (s : State) : Bool :=
  decide (s.seq.mode = .cycling) && s.monitor.inProgress && s.monitor.table.any (Watch.missesAt s.seq.phase)

/-- The starve limit has elapsed (R11; entry 32). -/
def State.starveDue (s : State) : Bool :=
  decide (s.seq.mode = .armed ∨ s.seq.mode = .waiting) &&
    (match s.seq.wait with
      | some t => timeUp t s.block.starveLimit
      | none => false)

/-- A manual pulse has counted down to 0 (R67). -/
def Channel.pulseDue (c : Channel) : Bool := decide (c.manual = some 0)

/-- An input's filtered edge in a direction is due; at the end of a cycle it waits for that end (R74, R77). -/
def State.inputDue (s : State) (i : Fin 4) (d : Slope) : Bool :=
  (s.filters.inputs.get i).due && decide ((s.filters.inputs.get i).slope = d) && !s.cycleEndDue

/-- The STOP line's filtered edge in a direction is due (R74). -/
def State.stopDue (s : State) (d : Slope) : Bool := s.filters.stop.due && decide (s.filters.stop.slope = d)

/-- The gap timer has run out (R137). -/
def State.gapDue (s : State) : Bool :=
  match s.link.asm.gap with
  | some t => timeUp t Config.gapMs
  | none => false

/-- The lapse timer has run out (R155). -/
def State.lapseDue (s : State) : Bool :=
  s.session.isOpen && decide (s.session.lapseTime ≠ 0) &&
    (match s.session.lapseTimer with
      | some t => timeUp t s.session.lapseTime
      | none => false)

/-- The resend timer of the entry that carries a number has run out (R165). -/
def State.resendDue (s : State) (number : Nat) : Bool :=
  s.notices.entries.any fun n => decide (n.number = number) && n.timerDue

/-- Stage 6 may be taken: 16 ticks since the filters began sampling, and no STOP edge of this tick still to be taken
(R130; entry 22). -/
def State.stopSettled (s : State) : Bool :=
  decide (Config.settleTicks ≤ s.filters.settle) && !s.filters.stop.due

/-- Stage 6 is due: stages 3 to 5 are done (R130). -/
def State.runStageDue (s : State) : Bool := decide (s.startup.stage = .booting) && s.stopSettled

end Sys2Proof.Machine
end

