-- ==== Sys2Proof/Machine/Link.lean ====
section
/-! DEFINITION. The Link Interface (chapter 8): the frame assembler, the waiting frame, the transmitter's arbiter. -/

namespace Sys2Proof.Machine

/-- The SYNC byte (R136). -/
def syncByte : Byte := 0xD5#8

/-- A length byte of a frame: 1 to 250 (R136). -/
def lengthOk (b : Byte) : Bool := decide (1 ≤ b.toNat ∧ b.toNat ≤ 250)

/-- Change the link counters. -/
def State.countLink (s : State) (f : LinkCounters → LinkCounters) : State :=
  { s with link := { s.link with counters := f s.link.counters } }

/-- Put another assembler in place. -/
def State.withAsm (s : State) (a : Asm) : State := { s with link := { s.link with asm := a } }

/-! ## The assembler -/

/-- A byte examined (R136), and whether it showed a false SYNC. A false SYNC's length byte is examined again in
SEARCHING; not being 0xD5, it leaves the assembler there. -/
def Asm.examine (a : Asm) (b : Byte) : Asm × Bool :=
  match a.state with
  | .searching => if b = syncByte then (⟨.length, [], none, some 0⟩, false) else (a, false)
  | .length => if lengthOk b then (⟨.body, [b], some b.toNat, some 0⟩, false) else (Asm.reset, true)
  | .body =>
    (⟨if some a.held.length = a.expected then .check else .body, a.held ++ [b], a.expected, some 0⟩, false)
  | .check => (⟨.check, a.held ++ [b], a.expected, some 0⟩, false)

/-- What the examination of bytes finds, in order. -/
inductive LinkEvent where
  | lengthError
  | gap
  | badCrc
  | good (f : Frame)
deriving DecidableEq, Repr

/-- The frame that LEN, body and CRC bytes carry. -/
def frameIn (n : Nat) (rest : List Byte) : Frame :=
  ⟨rest.take n, BitVec.ofNat 16 (fromBe ((rest.drop n).take 2))⟩

/-- A frame's CRC matches the one computed over LEN and body (R138, R170). -/
def Frame.crcOk (f : Frame) : Bool := decide (crc16 (be1 f.body.length ++ f.body) = f.crc)

/-- The assembler inside a frame whose held bytes these are. -/
def Asm.holding (held : List Byte) (gap : Option Nat) : Asm :=
  match held with
  | [] => ⟨.length, [], none, gap⟩
  | n :: body => ⟨if body.length < n.toNat then .body else .check, held, some n.toNat, gap⟩

/-- Bytes examined again from SEARCHING (R137, R138; entry 33): what they show in order, and the assembler they leave.
With `flush`, a frame they end inside is discarded at once and the bytes behind its SYNC examined in turn. -/
def rescan (flush : Bool) (gap : Option Nat) : Nat → List Byte → List LinkEvent × Asm
  | 0, _ => ([], Asm.reset)
  | _ + 1, [] => ([], Asm.reset)
  | k + 1, x :: xs =>
    if x ≠ syncByte then rescan flush gap k xs
    else
      match xs with
      | [] => if flush then ([.gap], Asm.reset) else ([], Asm.holding [] gap)
      | n :: rest =>
        if lengthOk n = false then (.lengthError :: (rescan flush gap k xs).1, (rescan flush gap k xs).2)
        else if rest.length < n.toNat + 2 then
          if flush then (.gap :: (rescan flush gap k xs).1, (rescan flush gap k xs).2) else ([], Asm.holding xs gap)
        else if (frameIn n.toNat rest).crcOk then
          (.good (frameIn n.toNat rest) :: (rescan flush gap k (rest.drop (n.toNat + 2))).1,
            (rescan flush gap k (rest.drop (n.toNat + 2))).2)
        else (.badCrc :: (rescan flush gap k xs).1, (rescan flush gap k xs).2)

/-! ## Bodies (R139, R140) -/

/-- The body check (R139). -/
def bodyOk (body : List Byte) : Bool :=
  match body with
  | t :: _ => decide ((t = 0x01#8 ∧ 3 ≤ body.length) ∨ (t = 0x04#8 ∧ body.length = 3))
  | [] => false

/-- A body is offered to the waiting-frame holding (R140). -/
def State.offer (s : State) (f : Frame) : State :=
  match s.link.waiting with
  | none => { s with link := { s.link with waiting := some f } }
  | some _ => s.countLink fun c => { c with overrun := bump c.overrun }

/-- A report of link activity restarts a running lapse timer (R138, R155). -/
def State.linkActivity (s : State) : State :=
  if s.session.isOpen ∧ s.session.lapseTime ≠ 0 then
    { s with session := { s.session with lapseTimer := some 0 } }
  else s

/-- A good frame (R138): counted, reported as activity, its body checked and offered. -/
def State.goodFrame (s : State) (f : Frame) : State :=
  let t := (s.countLink fun c => { c with framesGood := bump c.framesGood }).linkActivity
  if bodyOk f.body then t.offer f else t.countLink fun c => { c with badBody := bump c.badBody }

/-- What an examination found takes effect. -/
def State.linkEvent (s : State) : LinkEvent → State
  | .lengthError => s.countLink fun c => { c with lengthError := bump c.lengthError }
  | .gap => s.countLink fun c => { c with gap := bump c.gap }
  | .badCrc => s.countLink fun c => { c with crc := bump c.crc }
  | .good f => s.goodFrame f

/-- The results of a re-examination take effect in order, and the assembler is what it left. No waiting frame is taken
between them (R138, R140; entry 42). -/
def State.rescanned (s : State) (found : List LinkEvent × Asm) : State :=
  (found.1.foldl State.linkEvent s).withAsm found.2

/-- A complete frame is checked (R138). -/
def State.checkFrame (s : State) : State :=
  match s.link.asm.held with
  | [] => s.withAsm Asm.reset
  | n :: rest =>
    if (frameIn n.toNat rest).crcOk then (s.goodFrame (frameIn n.toNat rest)).withAsm Asm.reset
    else
      (s.linkEvent .badCrc).rescanned
        (rescan false s.link.asm.gap (n :: rest).length (n :: rest))

/-- A complete frame, if there is one, is checked. -/
def State.checkIfComplete (s : State) : State := if s.link.asm.complete then s.checkFrame else s

/-- A byte arrives at the assembler (R136); a complete frame is checked before it. -/
def State.receive (s : State) (b : Byte) : State :=
  let t := s.checkIfComplete
  let (a, falseSync) := t.link.asm.examine b
  if falseSync then (t.withAsm a).linkEvent .lengthError else t.withAsm a

/-- The gap timer runs out (R137). -/
def State.gapExpired (s : State) : State :=
  (s.linkEvent .gap).rescanned (rescan true none s.link.asm.held.length s.link.asm.held)

/-! ## The transmitter (R141 to R144) -/

/-- The eligible notice that stands first in the queue's order (R143, R144). -/
def State.nextNotice (s : State) : Option Notice :=
  if s.session.isOpen then s.notices.entries.find? fun n => !n.sent else none

/-- The idle transmitter begins the first eligible notice, if there is one (R143, R144, R164). -/
def State.beginNotice (s : State) : State :=
  match s.nextNotice with
  | none => s
  | some n =>
    { s with
      link := { s.link with tx := .sending (.notice n.number) (frameOf n.body) }
      notices := s.notices.change n.number Notice.begun }

/-- The arbiter chooses while the transmitter is IDLE: the oldest reply, else the first eligible notice (R143). A command
lets it choose once, behind everything it raises (entry 43). -/
def State.arbitrate (s : State) : State :=
  match s.link.tx with
  | .sending _ _ => s
  | .idle =>
    match s.link.outbox with
    | r :: rest =>
      { s with
        link := { s.link with outbox := rest, tx := .sending (.reply r.code r.status) (frameOf r.body) } }
    | [] => s.beginNotice

end Sys2Proof.Machine
end

