-- ==== Sys2Proof/Machine/Operands.lean ====
section
/-! DEFINITION. The parameters of every request (R172): how bytes form them, and the ranges their owners check. What the
bytes cannot form is BAD_LENGTH; a field out of range is BAD_VALUE with the lowest failing index (R148). -/

namespace Sys2Proof.Machine

/-- The lowest-numbered field that is out of range, of fields in order of index. -/
def firstBad (fields : List (Nat × Bool)) : Option Nat := (fields.find? fun f => !f.2).map Prod.fst

/-- An optional field is absent or in range. -/
def absentOr (ok : Nat → Bool) : Option Nat → Bool
  | none => true
  | some n => ok n

/-- RUN: no parameter bytes, taken as count 0, or the two-byte count (R12, R172). -/
def readRun (bs : List Byte) : Option Nat := if bs = [] then some 0 else allRead (read2 bs)

/-- PLAN_SET_CYCLE: seven optional fields (R26). -/
structure SetCycle where
  source : Option Nat
  length : Option Nat
  guard : Option Nat
  startInput : Option Nat
  startEdge : Option Nat
  starveLimit : Option Nat
  starvePolicy : Option Nat
deriving DecidableEq, Repr

def readSetCycle (bs : List Byte) : Option SetCycle := do
  let (presence, r) ← read1 bs
  let (source, r) ← readIf (presence.testBit 0) read1 r
  let (length, r) ← readIf (presence.testBit 1) read3 r
  let (guard, r) ← readIf (presence.testBit 2) read3 r
  let (startInput, r) ← readIf (presence.testBit 3) read1 r
  let (startEdge, r) ← readIf (presence.testBit 4) read1 r
  let (starveLimit, r) ← readIf (presence.testBit 5) read2 r
  let (starvePolicy, r) ← readIf (presence.testBit 6) read1 r
  if presence < 128 ∧ r = [] then
    some ⟨source, length, guard, startInput, startEdge, starveLimit, starvePolicy⟩
  else none

/-- The ranges of R26. -/
def SetCycle.bad (c : SetCycle) : Option Nat :=
  firstBad
    [(1, absentOr (fun n => (Source.ofCode n).isSome) c.source),
     (2, absentOr (fun n => decide (100 ≤ n ∧ n ≤ 16777215)) c.length),
     (3, absentOr (fun n => decide (n ≤ 16777215)) c.guard),
     (4, absentOr (fun n => decide (n < 4)) c.startInput),
     (5, absentOr (fun n => (StartEdge.ofCode n).isSome) c.startEdge),
     (6, absentOr (fun n => decide (n ≤ 65535)) c.starveLimit),
     (7, absentOr (fun n => (Policy.ofCode n).isSome) c.starvePolicy)]

/-- The cycle block with the present fields in place (R26). -/
def SetCycle.onto (c : SetCycle) (b : CycleBlock) : CycleBlock where
  source := (c.source.bind Source.ofCode).getD b.source
  length := c.length.getD b.length
  guard := c.guard.getD b.guard
  startInput := (c.startInput.bind (finOfCode 4)).getD b.startInput
  startEdge := (c.startEdge.bind StartEdge.ofCode).getD b.startEdge
  starveLimit := c.starveLimit.getD b.starveLimit
  starvePolicy := (c.starvePolicy.bind Policy.ofCode).getD b.starvePolicy

/-- PLAN_SET_CHANNEL and PLAN_SET_INPUT: a number and two optional fields (R27, R28). -/
structure SetPair where
  number : Nat
  first : Option Nat
  second : Option Nat
deriving DecidableEq, Repr

def readSetPair (bs : List Byte) : Option SetPair := do
  let (number, r) ← read1 bs
  let (presence, r) ← read1 r
  let (first, r) ← readIf (presence.testBit 0) read1 r
  let (second, r) ← readIf (presence.testBit 1) read1 r
  if presence < 4 ∧ r = [] then some ⟨number, first, second⟩ else none

/-- The ranges of R27. -/
def SetPair.badChannel (c : SetPair) : Option Nat :=
  firstBad
    [(1, decide (c.number < 8)), (2, absentOr (fun n => (Sense.ofCode n).isSome) c.first),
     (3, absentOr (fun n => (Use.ofCode n).isSome) c.second)]

/-- The ranges of R28. -/
def SetPair.badInput (c : SetPair) : Option Nat :=
  firstBad
    [(1, decide (c.number < 4)), (2, absentOr (fun n => decide (n ≤ 15)) c.first),
     (3, absentOr (fun n => (CaptureEdges.ofCode n).isSome) c.second)]

/-- The channel record with the present fields in place (R27). -/
def SetPair.ontoChannel (c : SetPair) (cfg : ChannelCfg) : ChannelCfg :=
  ⟨(c.first.bind Sense.ofCode).getD cfg.sense, (c.second.bind Use.ofCode).getD cfg.use⟩

/-- The input record with the present fields in place (R28). -/
def SetPair.ontoInput (c : SetPair) (cfg : InputCfg) : InputCfg :=
  ⟨c.first.getD cfg.depth, (c.second.bind CaptureEdges.ofCode).getD cfg.capture⟩

/-- ENTRY_ADD (R29). -/
def readEntryAdd (bs : List Byte) : Option RawEntry := allRead (readRawEntry bs)

/-- WINDOW_ADD (R32). -/
def readWindowAdd (bs : List Byte) : Option RawWindow := allRead (readRawWindow bs)

/-- A request with one one-byte field. -/
def readOne (bs : List Byte) : Option Nat := allRead (read1 bs)

/-- A request with two one-byte fields. -/
def readTwo (bs : List Byte) : Option (Nat × Nat) := allRead (readBoth read1 read1 bs)

/-- CHANNEL_PULSE: channel and width (R67). -/
def readPulse (bs : List Byte) : Option (Nat × Nat) := allRead (readBoth read1 read2 bs)

/-- The plan a field names: STAGED or ACTIVE (R37). -/
inductive PlanName where
  | staged
  | active
deriving DecidableEq, Repr

def PlanName.ofCode : Nat → Option PlanName
  | 0 => some .staged
  | 1 => some .active
  | _ => none

/-- PROFILE_SAVE: a slot, and a name as a length byte and that many characters (R107, R172). -/
def readSave (bs : List Byte) : Option (Nat × List Byte) :=
  match bs with
  | slot :: n :: chars => if chars.length = n.toNat then some (slot.toNat, chars) else none
  | _ => none

/-- A name of 1 to 12 characters with codes 32 to 126 (R107). -/
def nameOk (name : List Byte) : Bool :=
  decide (1 ≤ name.length ∧ name.length ≤ 12) && name.all fun c => decide (32 ≤ c.toNat ∧ c.toNat ≤ 126)

/-- A slot or NONE, 0xFF (R111, R172). -/
def slotOrNone (n : Nat) : Option (Option (Fin 8)) := if n = 255 then some none else (finOfCode 8 n).map some

/-- HELLO's fields (R153). -/
structure Hello where
  version : Nat
  resend : Nat
  lapseTime : Nat
  policy : Nat
deriving DecidableEq, Repr

def readHello (bs : List Byte) : Option Hello := do
  let (version, r) ← read1 bs
  let (resend, r) ← read2 r
  let (lapseTime, r) ← read2 r
  let (policy, r) ← read1 r
  if r = [] then some ⟨version, resend, lapseTime, policy⟩ else none

/-- The ranges of R153 for fields 2 to 4; a wrong version has a status of its own. -/
def Hello.bad (h : Hello) : Option Nat :=
  firstBad
    [(2, decide (10 ≤ h.resend ∧ h.resend ≤ 5000)),
     (3, decide (h.lapseTime = 0 ∨ (100 ≤ h.lapseTime ∧ h.lapseTime ≤ 60000))),
     (4, (Policy.ofCode h.policy).isSome)]

/-- The counter groups (R157). -/
inductive Group where
  | channels
  | inputs
  | windows
  | link
deriving DecidableEq, Repr

def Group.ofCode : Nat → Option Group
  | 0 => some .channels
  | 1 => some .inputs
  | 2 => some .windows
  | 3 => some .link
  | _ => none

end Sys2Proof.Machine
end

