-- ==== Sys2Proof/Machine/Requests.lean ====
section
/-! DEFINITION. The Request Handler (chapter 9): taking a request, its examination, the reply and the reply cache. -/

namespace Sys2Proof.Machine

/-- What an owner makes of a request: the state it leaves, its status and payload. `replyFirst` where the spec has the
reply in the outbox before what the request raises (R106, R143, R153). -/
structure Answer where
  state : State
  status : Status
  payload : List Byte := []
  replyFirst : Bool := false

/-- HELLO and STATUS, by their codes in the catalogue: taken before the report and without a session, and never looked
up or stored (R132, R148, R150, R151). -/
def alwaysTaken (code : Nat) : Bool := decide (code = 34 ∨ code = 36)

/-- The reply cache's entry for a request: its tag and its CRC (R150). -/
def State.cachedReply (s : State) (code : Nat) (q : Req) : Option Reply :=
  if alwaysTaken code = true ∨ q.tag = 0 then none
  else (s.session.cache.find? fun e => decide (e.tag = q.tag ∧ e.crc = q.crc)).map CacheEntry.reply

/-- An entry with the request's tag and another CRC is removed (R150). -/
def State.uncache (s : State) (code : Nat) (q : Req) : State :=
  if alwaysTaken code = true ∨ q.tag = 0 then s
  else { s with session := { s.session with cache := s.session.cache.filter fun e => decide (e.tag ≠ q.tag) } }

/-- Store an entry as the newest; of four, the oldest goes first (R151). -/
def cacheWith (cache : List CacheEntry) (e : CacheEntry) : List CacheEntry :=
  cache.drop (cache.length - (Config.cacheDepth - 1)) ++ [e]

/-- Store an examined request's reply (R151). -/
def State.cacheReply (s : State) (code : Nat) (q : Req) (r : Reply) : State :=
  if alwaysTaken code = true ∨ q.tag = 0 then s
  else { s with session := { s.session with cache := cacheWith s.session.cache ⟨q.tag, q.crc, r⟩ } }

/-- A reply enters the outbox (R141). -/
def State.putReply (s : State) (r : Reply) : State := { s with link := { s.link with outbox := s.link.outbox ++ [r] } }

/-- With the transmitter IDLE, a notice that has become ready with the reply may be begun before it (R143; entry 4). -/
def State.orderNotice (s : State) : State :=
  if s.link.tx = .idle ∧ s.nextNotice.isSome = true then
    let t : State := { s with choices := s.choices + 1 }
    if Config.noticeFirst s.choices then t.beginNotice else t
  else s

/-- The reply to a request just answered (R149). -/
def replyTo (code : Nat) (q : Req) (status : Status) (payload : List Byte) : Reply :=
  ⟨q.tag, BitVec.ofNat 8 code, status, false, payload⟩

/-- An answer becomes the reply: in the outbox, and the arbiter chooses (R141, R143, R149). -/
def State.send (s : State) (r : Reply) (replyFirst : Bool) : State :=
  ((if replyFirst then s else s.orderNotice).putReply r).arbitrate

/-- The answer of an examined request: its reply is stored in the cache and sent (R148, R151). -/
def Answer.reply (a : Answer) (code : Nat) (q : Req) : State :=
  (a.state.cacheReply code q (replyTo code q a.status a.payload)).send (replyTo code q a.status a.payload) a.replyFirst

/-- The examination of a request that is taken (R148); `execute` is what steps 4 to 6 make of it. -/
def State.examine (s : State) (code : Nat) (q : Req) (execute : State → Answer) : State :=
  if s.startup.stage ≠ .complete ∧ alwaysTaken code = false then s.send (replyTo code q .starting []) false
  else if s.session.isOpen = false ∧ alwaysTaken code = false then s.send (replyTo code q .noSession []) false
  else
    match s.cachedReply code q with
    | some r => s.send { r with repeated := true } false
    | none => (execute (s.uncache code q)).reply code q

/-- Step 5 and 6 of R148: parameter bytes that form no parameters are BAD_LENGTH, others go to the owner. -/
def executeWith {π : Type} (read : List Byte → Option π) (owner : π → State → Answer) (q : Req) (s : State) : Answer :=
  match read q.params with
  | none => ⟨s, .badLength, [], false⟩
  | some p => owner p s

/-- The frame of a request as the waiting-frame holding keeps it. -/
def requestFrame (code : Nat) (q : Req) : Frame := ⟨requestBody code q, q.crc⟩

/-- A request can be taken: the intake is TAKING and the outbox has room (R141, R147). -/
def State.canTake (s : State) : Bool :=
  decide (s.session.intake = .taking) && decide (s.link.outbox.length < Config.outboxDepth)

/-- The waiting frame is taken or put aside: the holding is empty. -/
def State.cleared (s : State) : State := { s with link := { s.link with waiting := none } }

/-- A request is offered to the holding and taken as soon as it may be (R140, R147; entry 6). Another frame already
waiting makes it an overrun; the frame that waits may be this one. -/
def State.takeRequest (s : State) (code : Nat) (q : Req) (handled : State → State) : State :=
  if s.live then
    if s.link.waiting = none ∨ s.link.waiting = some (requestFrame code q) then
      if s.canTake then handled s.cleared
      else { s with link := { s.link with waiting := some (requestFrame code q) } }
    else s.offer (requestFrame code q)
  else s

/-- A request's command: taken, examined with its parameters and owner, answered. -/
def requestStep {π : Type} (code : Nat) (read : List Byte → Option π) (owner : π → State → Answer) (q : Req)
    (s : State) : Host.Outcome State Fault Refusal :=
  .next (s.takeRequest code q fun t => t.examine code q (executeWith read owner q))

/-- The owner of a request code outside the catalogue (R148 step 4). -/
def unknownOwner (s : State) : Answer := ⟨s, .unknownRequest, [], false⟩

/-- An acknowledgement handed to the Notice Queue (R166). -/
def State.acknowledge (s : State) (number : Nat) : State :=
  if s.notices.carries number then { s with notices := s.notices.drop number }
  else s.countLink fun c => { c with staleAck := bump c.staleAck }

/-- An acknowledgement is offered to the holding and taken at once, in any intake (R140, R147). -/
def State.takeAck (s : State) (number : W16) : State :=
  if s.live then
    match s.link.waiting with
    | none => s.acknowledge number.toNat
    | some f =>
      if f.body = ackBody number then s.cleared.acknowledge number.toNat
      else s.offer ⟨ackBody number, crc16 (be1 3 ++ ackBody number)⟩
  else s

/-- An answer that refuses. -/
def refuse (s : State) (status : Status) : Answer := ⟨s, status, [], false⟩

/-- An answer OK without payload. -/
def okay (s : State) : Answer := ⟨s, .ok, [], false⟩

end Sys2Proof.Machine
end

