-- ==== Sys2Proof/Machine/CaptureRequests.lean ====
section
/-! DEFINITION. The three requests of the Capture Queue (04 sections 4.4 and 4.5). -/

namespace Sys2Proof.Machine

/-- CAPTURE_READ's reply: the records removed and the level they leave (R87). -/
def captureReadPayload (taken : List CaptureRecord) (level : Nat) : List Byte :=
  be1 taken.length ++ (taken.map CaptureRecord.bytes).flatten ++ be1 level

/-- The oldest records, up to a maximum, are removed (R87). -/
def Captures.removed (c : Captures) (maximum : Nat) : Captures :=
  ({ c with records := c.records.drop maximum } : Captures).rearm

/-- CAPTURE_READ at the Capture Queue (R87). -/
def captureReadOwner (maximum : Nat) (s : State) : Answer :=
  if 1 ≤ maximum ∧ maximum ≤ 12 then
    ⟨{ s with captures := s.captures.removed maximum }, .ok,
      captureReadPayload (s.captures.records.take maximum) (s.captures.records.drop maximum).length, false⟩
  else refuse s (.badValue 1)

/-- CAPTURE_READ (R87). -/
def execCaptureRead (q : Req) (s : State) : Host.Outcome State Fault Refusal :=
  requestStep 23 readOne captureReadOwner q s

/-- Every record is removed (R88). -/
def Captures.flushed (c : Captures) : Captures := { c with records := [], armed := true }

/-- CAPTURE_FLUSH at the Capture Queue (R88). -/
def captureFlushOwner (_ : Unit) (s : State) : Answer :=
  ⟨{ s with captures := s.captures.flushed }, .ok, be1 s.captures.records.length, false⟩

/-- CAPTURE_FLUSH (R88). -/
def execCaptureFlush (q : Req) (s : State) : Host.Outcome State Fault Refusal :=
  requestStep 24 readNothing captureFlushOwner q s

/-- The watermark is set and armed, and the level evaluated against it (R86). -/
def State.watermarked (s : State) (mark : Nat) : State :=
  let t : State :=
    { s with
      captures :=
        { s.captures with watermark := mark, armed := decide (s.captures.records.length < mark) } }
  if mark ≤ s.captures.records.length then t.raise (.merging .captureLevel s.seq.cycle) else t

/-- CAPTURE_WATERMARK at the Capture Queue (R86). -/
def captureWatermarkOwner (mark : Nat) (s : State) : Answer :=
  if 1 ≤ mark ∧ mark ≤ 128 then ⟨s.watermarked mark, .ok, be1 s.captures.records.length, false⟩
  else refuse s (.badValue 1)

/-- CAPTURE_WATERMARK (R86). -/
def execCaptureWatermark (q : Req) (s : State) : Host.Outcome State Fault Refusal :=
  requestStep 25 readOne captureWatermarkOwner q s

end Sys2Proof.Machine
end

