-- ==== Sys2Proof/Machine/ChannelRequests.lean ====
section
/-! DEFINITION. The four requests of the Output Drivers (03 section 3.3). -/

namespace Sys2Proof.Machine

/-- CHANNEL_HOLD at the Output Drivers (R65). -/
def channelHoldOwner (c : Nat) (s : State) : Answer :=
  match finOfCode 8 c with
  | none => refuse s (.badValue 1)
  | some i => if s.stopAsserted then refuse s .inhibited else okay (s.onChannel i Channel.taken)

/-- CHANNEL_HOLD (R65). -/
def execChannelHold (q : Req) (s : State) : Host.Outcome State Fault Refusal :=
  requestStep 19 readOne channelHoldOwner q s

/-- The refusals that CHANNEL_SET and CHANNEL_PULSE share once their fields are in range, in their order (R66). -/
def heldIdle (s : State) (i : Fin 8) (taken : State) : Answer :=
  if s.stopAsserted then refuse s .inhibited
  else if (s.channels.get i).hold = .free then refuse s .notHeld
  else if (s.channels.get i).manual.isSome then refuse s .channelBusy
  else okay taken

/-- CHANNEL_SET at the Output Drivers (R66). -/
def channelSetOwner (f : Nat × Nat) (s : State) : Answer :=
  match finOfCode 8 f.1, Level.ofCode f.2 with
  | none, _ => refuse s (.badValue 1)
  | some _, none => refuse s (.badValue 2)
  | some i, some level => heldIdle s i (s.onChannel i (Channel.setTo level))

/-- CHANNEL_SET (R66). -/
def execChannelSet (q : Req) (s : State) : Host.Outcome State Fault Refusal :=
  requestStep 20 readTwo channelSetOwner q s

/-- CHANNEL_PULSE at the Output Drivers (R67). -/
def channelPulseOwner (f : Nat × Nat) (s : State) : Answer :=
  match finOfCode 8 f.1 with
  | none => refuse s (.badValue 1)
  | some i => if f.2 = 0 then refuse s (.badValue 2) else heldIdle s i (s.onChannel i (Channel.pulsed f.2))

/-- CHANNEL_PULSE (R67). -/
def execChannelPulse (q : Req) (s : State) : Host.Outcome State Fault Refusal :=
  requestStep 21 readPulse channelPulseOwner q s

/-- CHANNEL_RELEASE at the Output Drivers (R68). -/
def channelReleaseOwner (c : Nat) (s : State) : Answer :=
  match finOfCode 8 c with
  | none => refuse s (.badValue 1)
  | some i => okay (s.onChannel i Channel.released)

/-- CHANNEL_RELEASE (R68). -/
def execChannelRelease (q : Req) (s : State) : Host.Outcome State Fault Refusal :=
  requestStep 22 readOne channelReleaseOwner q s

end Sys2Proof.Machine
end

