-- ==== Sys2Proof/Machine/Store.lean ====
section
/-! DEFINITION. The Profile Store (chapter 6): headers on the media, the steps of its operations, how a step ends, and
the start-up scan. -/

namespace Sys2Proof.Machine

/-! ## Headers (R101, R102, R175) -/

/-- The number of consecutive zero bits of a state byte, from bit 0 up to bit 3 (R175). -/
def lowZeros (b : Byte) : Nat :=
  if b.getLsbD 0 then 0
  else if b.getLsbD 1 then 1
  else if b.getLsbD 2 then 2
  else if b.getLsbD 3 then 3
  else 4

/-- The bank states (R101). -/
inductive BankState where
  | blank
  | fresh
  | opening
  | current
  | retired
deriving DecidableEq, Repr

/-- The bank state a state byte reads as (R175). -/
def bankStateOf (b : Byte) : BankState :=
  match lowZeros b with
  | 0 => .blank
  | 1 => .fresh
  | 2 => .opening
  | 3 => .current
  | _ => .retired

/-- The record states (R102). -/
inductive RecordState where
  | blank
  | started
  | written
  | live
  | dead
deriving DecidableEq, Repr

/-- The record state a state byte reads as (R175). -/
def recordStateOf (b : Byte) : RecordState :=
  if b.getLsbD 7 = false then .dead
  else
    match lowZeros b with
    | 0 => .blank
    | 1 => .started
    | 2 => .written
    | _ => .live

/-- All of some bytes are erased. -/
def allErased (bytes : List Byte) : Bool := bytes.all fun b => decide (b = erased)

/-- A bank's state, or none where its header is unreadable (R101; entry 18). -/
def Media.bankState (m : Media) (bank : Bank) : Option BankState :=
  if allErased (m.slice bank 0 Config.headerSize) then some .blank
  else if (crc16 (m.slice bank 5 4)).toNat = fromBe (m.slice bank 9 2) then some (bankStateOf (m.read bank.base))
  else none

/-- A bank's sequence (R101). -/
def Media.bankSeq (m : Media) (bank : Bank) : Nat := fromBe (m.slice bank 1 4)

/-- A bank's erase count, where it can be read (R101). -/
def Media.readCount (m : Media) (bank : Bank) : Option Nat :=
  match m.bankState bank with
  | none => none
  | some .blank => none
  | some _ => some (fromBe (m.slice bank 5 4))

/-- The erase count taken for a bank: its own, else the other bank's, else 0 (R101). -/
def Media.takenCount (m : Media) (bank : Bank) : Nat :=
  (m.readCount bank).getD ((m.readCount bank.other).getD 0)

/-- An erase would take the bank's erase count past the limit (R114). -/
def Media.wornOut (m : Media) (bank : Bank) : Bool := decide (Config.wearLimit ≤ m.takenCount bank)

/-- What the header of a FRESH bank holds: state, blank sequence, erase count, header check (R101, R175). -/
def freshHeader (count : Nat) : List Byte :=
  [0xFE#8] ++ List.replicate 4 erased ++ be4 count ++ be2 (crc16 (be4 count)).toNat

/-- A body's length padded to the next multiple of 16 (R103). -/
def padded (n : Nat) : Nat := (n + 15) / 16 * 16

/-- The bytes a record with such a body occupies (R103). -/
def recordSize (bodyLength : Nat) : Nat := Config.headerSize + padded bodyLength

/-- A record header with state STARTED: kind, slot byte, write number, body length, name, body CRC, check (R175). -/
def recordHeader (kind slot writeNumber : Nat) (name body : List Byte) : List Byte :=
  let fields :=
    be1 kind ++ be1 slot ++ be4 writeNumber ++ be2 body.length ++
      (name ++ List.replicate (12 - name.length) erased) ++ be4 (crc32 body).toNat
  [0xFE#8] ++ fields ++ be2 (crc16 fields).toNat

/-! ## The steps of the operations -/

/-- A program step. -/
def programStep (bank : Bank) (offset : Nat) (data : List Byte) (compacting : Bool) (effects : List StoreEffect) :
    MediaStep :=
  ⟨.program bank offset data, compacting, effects⟩

/-- A marking: one program step on a state byte (R102, R175). -/
def marking (bank : Bank) (offset : Nat) (state : Byte) (compacting : Bool) (effects : List StoreEffect) : MediaStep :=
  programStep bank offset [state] compacting effects

/-- Marking a record DEAD clears bit 7 alone (R175). -/
def deadByte : Byte := 0x7F#8

/-- Erase a bank and program it FRESH with an erase count (R101). -/
def refreshSteps (bank : Bank) (count : Nat) (compacting : Bool) (onErase : List StoreEffect) : List MediaStep :=
  [⟨.erase bank, compacting, onErase⟩,
   programStep bank 0 (freshHeader count) compacting [.freshCounted bank count]]

/-- A body's rows of up to 64 bytes (R100, R108), in at most so many rows. -/
def bodyRows (bank : Bank) (compacting : Bool) : Nat → Nat → List Byte → List MediaStep
  | 0, _, _ => []
  | k + 1, offset, body =>
    if body = [] then []
    else programStep bank offset (body.take 64) compacting [] :: bodyRows bank compacting k (offset + 64) (body.drop 64)

/-- Write one record: header STARTED, body, WRITTEN, LIVE (R108 steps 1 to 4). -/
def recordSteps (bank : Bank) (offset : Nat) (header body : List Byte) (compacting : Bool)
    (onHeader onLive : List StoreEffect) : List MediaStep :=
  programStep bank offset header compacting onHeader ::
    (bodyRows bank compacting body.length (offset + Config.headerSize) body ++
      [marking bank offset 0xFC#8 compacting [], marking bank offset 0xF8#8 compacting onLive])

/-- A record in force: write number, offset, body length. -/
structure InForce where
  writeNumber : Nat
  offset : Nat
  bodyLength : Nat
deriving DecidableEq, Repr

/-- Put a record in ascending order of write number. -/
def insertInForce (x : InForce) : List InForce → List InForce
  | [] => [x]
  | y :: rest => if x.writeNumber < y.writeNumber then x :: y :: rest else y :: insertInForce x rest

/-- The records in force, in ascending order of write number (R109 step 3). DESIGN CHOICE, unsafe (entry 48): records with
equal write numbers go in slot order, the boot selection last. -/
def Directory.inForce (d : Directory) : List InForce :=
  let slots := d.slots.cells.filterMap fun e => e.map fun r => InForce.mk r.writeNumber r.offset r.bodyLength
  let boot := match d.boot with
    | some r => [InForce.mk r.writeNumber r.offset 2]
    | none => []
  (slots ++ boot).foldl (fun acc x => insertInForce x acc) []

/-- The records packed one behind another from an offset: old offset and new (R109 step 3). -/
def packFrom : Nat → List InForce → List (Nat × Nat)
  | _, [] => []
  | at_, r :: rest => (r.offset, at_) :: packFrom (at_ + recordSize r.bodyLength) rest

/-- The bytes the records in force occupy. -/
def Directory.inForceBytes (d : Directory) : Nat := (d.inForce.map fun r => recordSize r.bodyLength).sum

/-- The directory once a compaction has made its new bank CURRENT (R105). -/
def Directory.repacked (d : Directory) (bank : Bank) : Directory :=
  let moved (offset : Nat) : Nat := ((packFrom Config.headerSize d.inForce).lookup offset).getD offset
  { d with
    slots := d.slots.mapIdx fun _ e => e.map fun r => { r with offset := moved r.offset }
    boot := d.boot.map fun r => { r with offset := moved r.offset }
    bank := some bank
    dead := 0
    free := Config.bankSize - Config.headerSize - d.inForceBytes }

/-- The copy of one record in force: its header as it stands, marked STARTED, and its body (R109 step 3). -/
def copySteps (m : Media) (src dst : Bank) (r : InForce) (newOffset : Nat) : List MediaStep :=
  recordSteps dst newOffset ([0xFE#8] ++ m.slice src (r.offset + 1) 26)
    (m.slice src (r.offset + Config.headerSize) r.bodyLength) true [] []

/-- The copies of all records in force. -/
def copyAll (m : Media) (src dst : Bank) : Nat → List InForce → List MediaStep
  | _, [] => []
  | at_, r :: rest => copySteps m src dst r at_ ++ copyAll m src dst (at_ + recordSize r.bodyLength) rest

/-- The first step of a compaction erases the other bank unless it is FRESH (R109 step 1). -/
def Media.mustErase (m : Media) (bank : Bank) : Bool := decide (m.bankState bank ≠ some .fresh)

/-- A compaction out of a bank (R109), and whether wear blocks its last erase (R114). -/
def compactionSteps (m : Media) (d : Directory) (cur : Bank) : List MediaStep × Bool :=
  let new := cur.other
  let prepare := if m.mustErase new then refreshSteps new (m.takenCount new + 1) true [] else []
  let opening := [programStep new 0 ([0xFC#8] ++ be4 (m.bankSeq cur + 1)) true []]
  let copies := copyAll m cur new Config.headerSize d.inForce
  let current := [marking new 0 0xF8#8 true [.becameCurrent new]]
  let retired := [marking cur 0 0xF0#8 true []]
  let clear := if m.wornOut cur then [] else refreshSteps cur (m.takenCount cur + 1) true []
  (prepare ++ opening ++ copies ++ current ++ retired ++ clear, m.wornOut cur)

/-- Where the free space of a directory's bank begins (R103). -/
def Directory.freeAt (d : Directory) : Nat := Config.bankSize - d.free

/-- A save writes its record, and marks the slot's previous record DEAD (R108). -/
def saveSteps (d : Directory) (bank : Bank) (slot : Fin 8) (name body : List Byte) : List MediaStep :=
  let entry : DirEntry := ⟨d.nextWrite, name, body.length, d.freeAt⟩
  recordSteps bank d.freeAt (recordHeader 1 slot.val d.nextWrite name body) body false
      [.issued (recordSize body.length)] [.profileLive slot entry] ++
    match d.slots.get slot with
    | some old => [marking bank old.offset deadByte false [.madeDead (recordSize old.bodyLength)]]
    | none => []

/-- A BOOT_SELECT body (R103, R175). -/
def bootBody (selected : Option (Fin 8)) (autoRun : Bool) : List Byte :=
  orFF (selected.map Fin.val) ++ be1 (yesNo autoRun)

/-- A BOOT_SET writes its record, and marks the previous selection's DEAD (R111). DESIGN CHOICE, unsafe (entry 41): that record
adds 48 dead bytes even where its header stores a body length of 0, by which R103 gives it 32. -/
def bootSteps (d : Directory) (bank : Bank) (selected : Option (Fin 8)) (autoRun : Bool) : List MediaStep :=
  let entry : BootEntry := ⟨d.nextWrite, selected, autoRun, d.freeAt⟩
  recordSteps bank d.freeAt (recordHeader 2 255 d.nextWrite [] (bootBody selected autoRun)) (bootBody selected autoRun)
      false [.issued (recordSize 2)] [.bootLive entry] ++
    match d.boot with
    | some old => [marking bank old.offset deadByte false [.madeDead (recordSize 2)]]
    | none => []

/-- The steps of a format (R112), with what its erases and its last marking bring. -/
def formatSteps (m : Media) (onErase onDone : List StoreEffect) : List MediaStep :=
  refreshSteps .a (m.takenCount .a + 1) false onErase ++ refreshSteps .b (m.takenCount .b + 1) false onErase ++
    [programStep .a 0 ([0xFC#8] ++ be4 1) false [], marking .a 0 0xF8#8 false onDone]

/-- Wear blocks a format (R112). -/
def Media.formatBlocked (m : Media) : Bool := m.wornOut .a || m.wornOut .b

/-- The directory of a formatted store (R112). -/
def Directory.formatted : Directory :=
  { Directory.blank with bank := some .a, free := Config.bankSize - Config.headerSize }

/-! ## The end of a step (R100, R105, R113) -/

/-- What a verified step changes (R105). -/
def StoreEffect.apply (st : Store) : StoreEffect → Store
  | .issued size =>
    { st with dir := { st.dir with nextWrite := st.dir.nextWrite + 1, free := st.dir.free - size } }
  | .profileLive slot entry => { st with dir := { st.dir with slots := st.dir.slots.set slot (some entry) } }
  | .bootLive entry => { st with dir := { st.dir with boot := some entry } }
  | .madeDead size => { st with dir := { st.dir with dead := st.dir.dead + size } }
  | .slotEmptied slot => { st with dir := { st.dir with slots := st.dir.slots.set slot none } }
  | .becameCurrent bank =>
    { st with dir := st.dir.repacked bank, job := st.job.map fun j => { j with compacted := true } }
  | .freshCounted .a count => { st with countA := count }
  | .freshCounted .b count => { st with countB := count }
  | .formatted => { st with dir := Directory.formatted }
  | .repaired => { st with job := st.job.map fun j => { j with repairs := j.repairs + 1 } }

/-- The end of a writing operation: the state R104 gives, and STORE_DONE (R106). -/
def State.endOp (s : State) (op : StoreOp) (result : StoreResult) (compacted worn : Bool) : State :=
  State.raise
    { s with
      store :=
        { s.store with
          status := if result = .verifyFailed ∨ worn = true then .readOnly else .ready, job := none } }
    (.report (.storeDone op result compacted))

/-- An accepted operation: BUSY with its steps (R106). -/
def State.beginOp (s : State) (op : StoreOp) (steps : List MediaStep) (worn : Bool) : State :=
  { s with
    store := { s.store with status := .busy, job := some ⟨.op op, steps, false, worn, false, 0⟩ } }

/-- The first step of the work in progress has verified: its effects, then the next step or the end. -/
def State.stepVerified (s : State) (job : Job) (step : MediaStep) (rest : List MediaStep) : State :=
  let started : Store := { s.store with job := some { job with steps := rest } }
  let t : State := { s with store := step.effects.foldl StoreEffect.apply started }
  match job.kind, rest with
  | .op op, [] => t.endOp op .done ((t.store.job.map Job.compacted).getD false) job.worn
  | _, _ => t

/-- The first step of the work in progress has failed to verify (R113, R121). -/
def State.stepFailed (s : State) (job : Job) : State :=
  match job.kind with
  | .op op => s.endOp op .verifyFailed job.compacted false
  | .scan _ _ _ => { s with store := { s.store with job := some { job with steps := [], failed := true } } }

/-- A program step of one row ends, its cells as programmed but for `faults`, which keep no more ones than there were
(R100, R102; entry 9), and is verified. -/
def State.programEnds (s : State) (faults : List Host.Cell) (job : Job) (step : MediaStep) (rest : List MediaStep)
    (bank : Bank) (offset : Nat) (data : List Byte) : State :=
  let addr := bank.base + offset
  let meant := s.media.program [] addr data
  let got := meant.force addr data.length (s.media.onlyClears faults)
  let t : State := { s with media := got }
  if got.readMany addr data.length = meant.readMany addr data.length then t.stepVerified job step rest
  else t.stepFailed job

/-- A bank erase ends, its cells all ones but for `faults`, and is verified (R100). -/
def State.eraseEnds (s : State) (faults : List Host.Cell) (job : Job) (step : MediaStep) (rest : List MediaStep)
    (bank : Bank) : State :=
  let meant := s.media.erase [] bank
  let got := meant.force bank.base Config.bankSize faults
  let t : State := { s with media := got }
  if got = meant then t.stepVerified job step rest else t.stepFailed job

/-- A bank whose header the scan answers by erasing the bank (R119). -/
def Media.erasedByScan (m : Media) (bank : Bank) : Bool :=
  match m.bankState bank with
  | none => true
  | some .opening => true
  | some .retired => true
  | some .blank => false
  | some .fresh => false
  | some .current => false

/-- An erase cut off: the bits `torn` lists keep their old value. With every cell as it was, the erase had not begun; once
it has begun the bank is not CURRENT (R112) and the scan finds what is left of it (R100), or it is erased (entry 9). -/
def Media.eraseCut (m : Media) (torn : List Host.Cell) (bank : Bank) : Media :=
  if m.erase torn bank = m ∨ (m.erase torn bank).erasedByScan bank = true then m.erase torn bank else m.erase [] bank

/-- A media step cut off (R100): the bits `torn` lists keep their old value. -/
def State.tornMedia (s : State) (torn : List Host.Cell) : Media :=
  match s.store.job with
  | some job =>
    match job.steps with
    | step :: _ =>
      match step.act with
      | .program bank offset data =>
        if offset + data.length ≤ Config.bankSize then s.media.program torn (bank.base + offset) data else s.media
      | .erase bank => s.media.eraseCut torn bank
    | [] => s.media
  | none => s.media

/-! ## Reading a profile (R116, R122) -/

/-- The plan of a slot's record, or none where the record is bad (R116 step 5, R175). -/
def State.readProfile (s : State) (e : DirEntry) : Option Plan :=
  match s.store.dir.bank with
  | none => none
  | some bank =>
    let body := s.media.slice bank (e.offset + Config.headerSize) e.bodyLength
    if (crc32 body).toNat = fromBe (s.media.slice bank (e.offset + 21) 4) then Plan.ofBytes body else none

/-! ## The start-up scan (R119 to R121) -/

/-- A LIVE record the scan keeps as a candidate: a slot's profile, or a boot selection. -/
inductive FoundKind where
  | profile (slot : Fin 8) (name : List Byte)
  | boot (selected : Option (Fin 8)) (autoRun : Bool)
deriving DecidableEq, Repr

/-- A candidate of the scan. -/
structure Found where
  kind : FoundKind
  writeNumber : Nat
  bodyLength : Nat
  offset : Nat
deriving DecidableEq, Repr

/-- What the walk has found so far: candidates and records to mark DEAD in order, corrupt records, the highest write
number, and where the records end. -/
structure Walk where
  found : List Found
  kill : List Nat
  corrupt : Nat
  highest : Nat
  stop : Nat
deriving DecidableEq, Repr

/-- The kind of a record by its bytes: the slot for a PROFILE, or a BOOT_SELECT (R102, R120). -/
inductive HeaderKind where
  | profile (slot : Fin 8)
  | boot
deriving DecidableEq, Repr

/-- A record's kind, or none for an unknown kind or a PROFILE's slot above 7 (R120). DESIGN CHOICE, unsafe (entry 47): the
slot byte of a BOOT_SELECT, which the part leaves 0xFF (R102, R175), is not looked at, whatever it holds. -/
def headerKind (kind slot : Nat) : Option HeaderKind :=
  if kind = 1 then (finOfCode 8 slot).map HeaderKind.profile
  else if kind = 2 then some .boot
  else none

/-- The longest body of a kind (R103). -/
def HeaderKind.maxBody : HeaderKind → Nat
  | .profile _ => 1168
  | .boot => 2

/-- The selected slot of a BOOT_SELECT body, when its byte is in range (R120). -/
def bootSlotOf (b : Byte) : Option (Option (Fin 8)) :=
  if b = erased then some none else (finOfCode 8 b.toNat).map some

/-- The auto-run choice of a BOOT_SELECT body, when its byte is in range (R120). -/
def bootAutoOf (b : Byte) : Option Bool := if b = 0#8 then some false else if b = 1#8 then some true else none

/-- The candidate that a LIVE record with a good body CRC makes, or none where a boot selection is out of range
(R120). A boot selection's two bytes are read where its body stands, whatever its length (entry 41). DESIGN CHOICE, unsafe
(entry 49): a profile's name is the bytes before the first 0xFF, be they none or no characters of a name. -/
def Media.candidate (m : Media) (bank : Bank) (offset : Nat) (kind : HeaderKind) (writeNumber bodyLength : Nat) :
    Option Found :=
  match kind with
  | .profile slot =>
    some ⟨.profile slot ((m.slice bank (offset + 9) 12).takeWhile fun b => decide (b ≠ erased)), writeNumber,
      bodyLength, offset⟩
  | .boot =>
    match bootSlotOf (m.read (bank.base + offset + 32)), bootAutoOf (m.read (bank.base + offset + 33)) with
    | some sel, some auto => some ⟨.boot sel auto, writeNumber, bodyLength, offset⟩
    | _, _ => none

/-- The walk sees one readable record (R120). -/
def Walk.see (w : Walk) (m : Media) (bank : Bank) (offset : Nat) (kind : HeaderKind) (writeNumber bodyLength : Nat) :
    Walk :=
  let w := { w with highest := max w.highest writeNumber }
  match recordStateOf (m.read (bank.base + offset)) with
  | .dead => w
  | .live =>
    if (crc32 (m.slice bank (offset + Config.headerSize) bodyLength)).toNat = fromBe (m.slice bank (offset + 21) 4) then
      match m.candidate bank offset kind writeNumber bodyLength with
      | some f => { w with found := w.found ++ [f] }
      | none => { w with kill := w.kill ++ [offset], corrupt := w.corrupt + 1 }
    else { w with kill := w.kill ++ [offset], corrupt := w.corrupt + 1 }
  | _ => { w with kill := w.kill ++ [offset] }

/-- The walk over a bank's records from an offset (R120), over at most so many records. -/
def Media.walk (m : Media) (bank : Bank) : Nat → Nat → Walk → Walk
  | 0, offset, w => { w with stop := offset }
  | k + 1, offset, w =>
    if Config.bankSize < offset + Config.headerSize then { w with stop := offset }
    else if allErased (m.slice bank offset Config.headerSize) then { w with stop := offset }
    else
      let bodyLength := fromBe (m.slice bank (offset + 7) 2)
      if (crc16 (m.slice bank (offset + 1) 24)).toNat = fromBe (m.slice bank (offset + 25) 2) then
        match headerKind (m.read (bank.base + offset + 1)).toNat (m.read (bank.base + offset + 2)).toNat with
        | none => { w with stop := Config.bankSize }
        | some kind =>
          if bodyLength ≤ kind.maxBody ∧ offset + recordSize bodyLength ≤ Config.bankSize then
            m.walk bank k (offset + recordSize bodyLength)
              (w.see m bank offset kind (fromBe (m.slice bank (offset + 3) 4)) bodyLength)
          else { w with stop := Config.bankSize }
      else { w with stop := Config.bankSize }

/-- Two candidates are for one place: the same slot, or both boot selections (R121). -/
def FoundKind.samePlace : FoundKind → FoundKind → Bool
  | .profile i _, .profile j _ => decide (i = j)
  | .boot _ _, .boot _ _ => true
  | _, _ => false

/-- A candidate is superseded by another with a higher write number, or by an earlier one with an equal one (R121;
entry 20). -/
def Found.supersededIn (all : List Found) (f : Found) : Bool :=
  all.any fun g => g.kind.samePlace f.kind &&
    decide (f.writeNumber < g.writeNumber ∨ (f.writeNumber = g.writeNumber ∧ g.offset < f.offset))

/-- The directory entry of a slot among the records that remain. -/
def slotEntry (kept : List Found) (i : Fin 8) : Option DirEntry :=
  kept.findSome? fun f =>
    match f.kind with
    | .profile j name => if j = i then some ⟨f.writeNumber, name, f.bodyLength, f.offset⟩ else none
    | .boot _ _ => none

/-- The boot selection among the records that remain. -/
def bootEntry (kept : List Found) : Option BootEntry :=
  kept.findSome? fun f =>
    match f.kind with
    | .boot sel auto => some ⟨f.writeNumber, sel, auto, f.offset⟩
    | .profile _ _ => none

/-- The walk over a bank from its first record. -/
def Media.walked (m : Media) (bank : Bank) : Walk :=
  m.walk bank 512 Config.headerSize ⟨[], [], 0, 0, Config.headerSize⟩

/-- The candidates that remain (R121). -/
def Walk.kept (w : Walk) : List Found := w.found.filter fun f => !f.supersededIn w.found

/-- The directory the scan builds (R105, R121): what is not in force of the occupied space is dead (R103). -/
def Walk.directory (w : Walk) (bank : Bank) : Directory where
  slots := Row.tab (slotEntry w.kept)
  boot := bootEntry w.kept
  bank := some bank
  nextWrite := w.highest + 1
  free := Config.bankSize - w.stop
  dead := w.stop - Config.headerSize - (w.kept.map fun f => recordSize f.bodyLength).sum

/-- A DEAD marking of the scan: one repair (R120, R121). -/
def killStep (bank : Bank) (offset : Nat) : MediaStep := marking bank offset deadByte false [.repaired]

/-- The markings of the scan: those of the walk, then those among the candidates (R120, R121). -/
def Walk.kills (w : Walk) (bank : Bank) : List MediaStep :=
  (w.kill ++ (w.found.filter fun f => f.supersededIn w.found).map Found.offset).map (killStep bank)

/-- A bank reads CURRENT and its header is readable (R119). -/
def Media.isCurrent (m : Media) (bank : Bank) : Bool := decide (m.bankState bank = some .current)

/-- The bank the scan uses (R119). -/
def Media.chosen (m : Media) : Option Bank :=
  match m.isCurrent .a, m.isCurrent .b with
  | true, true => if m.bankSeq .a < m.bankSeq .b then some .b else some .a
  | true, false => some .a
  | false, true => some .b
  | false, false => none

/-- What the scan does to the other bank, and whether wear blocks it (R119). -/
def Media.otherSteps (m : Media) (used : Bank) : List MediaStep × Bool :=
  let other := used.other
  match m.bankState other with
  | some .fresh => ([], false)
  | some .blank =>
    ([programStep other 0 (freshHeader (m.takenCount used)) false [.freshCounted other (m.takenCount used)]], false)
  | _ =>
    if m.wornOut other then ([], true) else (refreshSteps other (m.takenCount other + 1) false [.repaired], false)

/-- The work of the start-up scan on media as they stand (R119 to R121). -/
def Media.scanJob (m : Media) : Job :=
  match m.chosen with
  | none =>
    if m.formatBlocked then ⟨.scan Directory.blank 0 true, [], false, true, false, 0⟩
    else ⟨.scan Directory.formatted 0 true, formatSteps m [.repaired] [], false, false, false, 0⟩
  | some bank =>
    let w := m.walked bank
    let other := m.otherSteps bank
    ⟨.scan (w.directory bank) w.corrupt false, other.1 ++ w.kills bank, false, other.2, false, 0⟩

/-- The store as the scan begins (R104, R105, R119). -/
def Media.scanning (m : Media) : Store :=
  { status := .starting, dir := Directory.blank, job := some m.scanJob, countA := m.takenCount .a,
    countB := m.takenCount .b }

/-- The scan has no step left to make: its directory and results (R119, R121). -/
def Job.scanResult (j : Job) : Option (Directory × ScanReport) :=
  match j.kind, j.steps with
  | .scan found corrupt formatting, [] =>
    let bad := j.failed || j.worn
    some (if formatting && bad then Directory.blank else found,
      ⟨bad, min 65535 j.repairs, min 65535 corrupt, formatting && !bad⟩)
  | _, _ => none

end Sys2Proof.Machine
end

