-- ==== Sys2Proof/Machine/Startup.lean ====
section
/-! DEFINITION. The Start-up Loader (chapter 7): what a reset does, the straps, and stages 3 to 7. -/

namespace Sys2Proof.Machine

/-! ## Resets (R123) -/

/-- The filters after a reset: their own state as R73 gives it, the lines as they stand. -/
def Filters.resetBy (f : Filters) : Filters where
  inputs := f.inputs.mapIdx fun _ g => Filter.resetInput g.raw
  stop := Filter.resetStop f.stop.raw
  settle := 0

/-- A reset by a cause (R123): every block in its reset state, the media kept but for a step cut off (R100), the lines
as they stand. The model's own queue and counter are no part of the part. -/
def State.resetBy (s : State) (cause : ResetCause) (torn : List Host.Cell) (powered : Bool) : State :=
  { State.reset with
    media := s.tornMedia torn
    filters := s.filters.resetBy
    startup := { State.reset.startup with cause := cause, powered := powered }
    choices := s.choices
    pending := s.pending }

/-! ## Stages 1 to 3 (R126, R127, R134) -/

/-- The link rate that the straps RATE1 and RATE0 select (R134). -/
def rateOf (rate1 rate0 : Wire) : LinkRate :=
  match rate1, rate0 with
  | .low, .low => .r115200
  | .low, .high => .r460800
  | .high, .low => .r921600
  | .high, .high => .r1843200

/-- Stages 1, 2 and the begin of stage 3: the straps sampled, the link up, the scan begun (R126, R127). The Link
Interface and the Request Handler stand as the reset left them, which is their state at stage 2 (R135, R146). -/
def State.begins (s : State) (rate1 rate0 : Wire) : State :=
  { s with
    link := { s.link with rate := rateOf rate1 rate0 }
    store := s.media.scanning
    startup := { s.startup with stage := .scanning } }

/-! ## Stage 4 (R50, R122, R128) -/

/-- The boot plan is installed as both plans; its parts go to their users, the channel block apart (R50). -/
def State.install (s : State) (p : Plan) : State :=
  { s with
    plans := { s.plans with staged := p, active := p, stagedTimeline := p.expand }
    timeline := s.timeline.replaced p.expand
    monitor := s.monitor.withTable p.windows }

/-- The boot slot and the boot result (R128). -/
def State.booted (s : State) (slot : Option (Fin 8)) (result : BootResult) : State :=
  { s with startup := { s.startup with bootSlot := slot, bootResult := result } }

/-- The auto-run choice is kept for stage 6: no when the selection is NONE (R128). -/
def State.keepAutoRun (s : State) (choice : Bool) : State :=
  { s with startup := { s.startup with autoRun := choice } }

/-- The boot read and the boot load for a selected slot (R122, R128). -/
def State.bootFrom (s : State) (slot : Fin 8) : State :=
  match s.store.dir.slots.get slot with
  | none => s.booted (some slot) .emptySlot
  | some entry =>
    match s.readProfile entry with
    | none => s.booted (some slot) .recordBad
    | some p =>
      if p.failure.isSome then s.booted (some slot) .planInvalid else (s.install p).booted (some slot) .loaded

/-- Stage 4 (R128). -/
def State.bootLoad (s : State) : State :=
  match s.store.dir.boot with
  | some ⟨_, some slot, choice, _⟩ => (s.keepAutoRun choice).bootFrom slot
  | _ => (s.keepAutoRun false).booted none .noSelection

/-! ## Stages 6 and 7 (R130, R131) -/

/-- The auto-run result: the tests of R130 in their order. -/
def State.autoDecision (s : State) : AutoResult :=
  if s.startup.autoRun = false then .off
  else if s.startup.bootResult ≠ .loaded then .notBooted
  else if s.stopAsserted then .inhibited
  else if s.plans.active.hasWork = false then .planEmpty
  else .started

/-- Stage 6: the RUN with count 0, if it is to start (R130). -/
def State.autoRunStage (s : State) : State :=
  let t : State := { s with startup := { s.startup with autoResult := s.autoDecision } }
  if s.autoDecision = .started then t.startRun 0 else t

/-- Stage 7: STARTUP_REPORT is raised and start-up is COMPLETE (R131). -/
def State.reportStage (s : State) : State :=
  State.raise { s with startup := { s.startup with stage := .complete } }
    (.report
      (.startup s.startup.cause s.startup.scan s.startup.bootSlot s.startup.bootResult s.startup.autoResult))

/-- Stages 6 and 7, one happening (R131). -/
def State.runStage (s : State) : State := s.autoRunStage.reportStage.arbitrate

/-! ## The end of the scan (R121, R127) -/

/-- The scan hands over its directory and results; the store is READY or READ_ONLY and the stage BOOTING. -/
def State.scanDone (s : State) (found : Directory) (report : ScanReport) : State :=
  { s with
    store :=
      { s.store with status := if report.readOnly then .readOnly else .ready, dir := found, job := none }
    startup := { s.startup with stage := .booting, scan := report } }

/-- The scan ends: stages 3 to 5, and stages 6 and 7 unless the STOP filter has still to settle (entry 22). -/
def State.scanEnds (s : State) (found : Directory) (report : ScanReport) : State :=
  let booted := (s.scanDone found report).bootLoad.applyChannelBlock
  if booted.stopSettled then booted.runStage else booted

end Sys2Proof.Machine
end

