-- ==== Sys2Proof/Machine/LinkEvents.lean ====
section
/-! DEFINITION. The commands of the link: acknowledgements, frames, characters, and the timers of chapters 8 to 10.
Each takes effect while the part is live and its happening is due, and changes nothing otherwise (entry 5). -/

namespace Sys2Proof.Machine

/-- ACK (R147, R166). -/
def execAck (number : W16) (s : State) : Host.Outcome State Fault Refusal := .next (s.takeAck number)

/-- A complete frame: the one the assembler holds, or one that arrives whole, SYNC first (R136, R138). -/
def State.frameArrives (s : State) (bytes : List Byte) : State :=
  if s.link.asm.complete = true ∧ s.link.asm.held = bytes then s.checkFrame
  else ((syncByte :: bytes).foldl State.receive s).checkIfComplete

/-- FRAME_RECEIVED (R138). -/
def execFrameReceived (bytes : List Byte) (s : State) : Host.Outcome State Fault Refusal :=
  .next (if s.live then s.frameArrives bytes else s)

/-- A character with a low stop bit counts as a line error and is delivered all the same (R133). -/
def State.characterArrives (s : State) (byte : Byte) (lineError : Bool) : State :=
  (if lineError then s.countLink fun c => { c with lineError := bump c.lineError } else s).receive byte

/-- CHARACTER_RECEIVED (R133, R136). -/
def execCharacterReceived (byte : Byte) (lineError : Bool) (s : State) : Host.Outcome State Fault Refusal :=
  .next (if s.live then s.characterArrives byte lineError else s)

/-- GAP_TIMER_EXPIRY (R137). -/
def execGapTimerExpiry (s : State) : Host.Outcome State Fault Refusal :=
  .next (if s.live && s.gapDue then s.gapExpired else s)

/-- The session is closed and its timer stopped (R154, R155). -/
def State.closeSession (s : State) : State :=
  { s with session := { s.session with isOpen := false, lapseTimer := none } }

/-- The transmitter becomes IDLE (R142). -/
def State.txIdle (s : State) : State := { s with link := { s.link with tx := .idle } }

/-- The Request Handler hears that a reply has left (R142): it acts on GOODBYE's (R154) and RESTART's (R124) that were
answered OK (entry 15). -/
def State.replyLeft (s : State) (code : Byte) (status : Status) : State :=
  if code = 35#8 ∧ status = .ok ∧ s.session.intake = .awaitingGoodbye then
    let t := s.closeSession
    { t with session := { t.session with intake := .taking } }
  else if code = 33#8 ∧ status = .ok ∧ s.session.intake = .awaitingRestart then s.resetBy .restart [] true
  else s

/-- The end of a frame: its owner is told and it is counted (R142, R145, R164). -/
def State.frameLeft (s : State) (owner : TxOwner) : State :=
  match owner with
  | .reply code status =>
    (s.countLink fun c => { c with repliesSent := bump c.repliesSent }).replyLeft code status
  | .notice number =>
    let t := s.countLink fun c => { c with noticesSent := bump c.noticesSent }
    { t with notices := t.notices.change number (Notice.frameEnded t.notices.resend) }

/-- TRANSMIT_FRAME_END (R142). -/
def execTransmitFrameEnd (s : State) : Host.Outcome State Fault Refusal :=
  .next
    (match s.link.tx with
      | .sending owner _ => if s.live then (s.frameLeft owner).txIdle.arbitrate else s
      | .idle => s)

/-- A lapse (R155, R18). -/
def State.lapses (s : State) : State :=
  let t := s.closeSession
  if s.session.lapsePolicy = .halt ∧ s.seq.mode.running = true then t.enterHalted .lapse s.seq.phase none else t

/-- LAPSE (R155). -/
def execLapse (s : State) : Host.Outcome State Fault Refusal :=
  .next (if s.live && s.lapseDue then s.lapses.arbitrate else s)

/-- The resend timer of an entry runs out (R165). -/
def State.resends (s : State) (number : Nat) : State :=
  { s with notices := s.notices.change number Notice.expired }

/-- RESEND_TIMER_EXPIRY (R165). -/
def execResendTimerExpiry (number : W16) (s : State) : Host.Outcome State Fault Refusal :=
  .next (if s.live && s.resendDue number.toNat then (s.resends number.toNat).arbitrate else s)

end Sys2Proof.Machine
end

