-- ==== Sys2Proof/Machine/PlanRequests.lean ====
section
/-! DEFINITION. The fifteen requests of the Plan Buffers (chapter 2). -/

namespace Sys2Proof.Machine

/-- Put a staged plan in place. -/
def State.stage (s : State) (p : Plan) : State := { s with plans := { s.plans with staged := p } }

/-- The order every edit is examined in: a pending commit, the lowest field out of range, the rest (R25). -/
def edit (s : State) (bad : Option Nat) (rest : Answer) : Answer :=
  if s.plans.commitPending then refuse s .commitPending
  else
    match bad with
    | some index => refuse s (.badValue index)
    | none => rest

/-- The staged plan. -/
def State.staged (s : State) : Plan := s.plans.staged

/-! ## The blocks of the plan -/

/-- PLAN_SET_CYCLE at the Plan Buffers (R26). -/
def planSetCycleOwner (c : SetCycle) (s : State) : Answer :=
  edit s c.bad (okay (s.stage { s.staged with cycle := c.onto s.staged.cycle }))

/-- PLAN_SET_CYCLE (R26). -/
def execPlanSetCycle (q : Req) (s : State) : Host.Outcome State Fault Refusal :=
  requestStep 4 readSetCycle planSetCycleOwner q s

/-- PLAN_SET_CHANNEL at the Plan Buffers (R27). -/
def planSetChannelOwner (c : SetPair) (s : State) : Answer :=
  edit s c.badChannel
    (match finOfCode 8 c.number with
      | some i => okay (s.stage { s.staged with channels := s.staged.channels.modify i c.ontoChannel })
      | none => refuse s (.badValue 1))

/-- PLAN_SET_CHANNEL (R27). -/
def execPlanSetChannel (q : Req) (s : State) : Host.Outcome State Fault Refusal :=
  requestStep 5 readSetPair planSetChannelOwner q s

/-- PLAN_SET_INPUT at the Plan Buffers (R28). -/
def planSetInputOwner (c : SetPair) (s : State) : Answer :=
  edit s c.badInput
    (match finOfCode 4 c.number with
      | some i => okay (s.stage { s.staged with inputs := s.staged.inputs.modify i c.ontoInput })
      | none => refuse s (.badValue 1))

/-- PLAN_SET_INPUT (R28). -/
def execPlanSetInput (q : Req) (s : State) : Host.Outcome State Fault Refusal :=
  requestStep 6 readSetPair planSetInputOwner q s

/-! ## The entries table -/

/-- Put an entry behind every entry whose offset is at most its own (R30). In a loaded table out of order it goes before
the first row with a greater offset (entry 45). -/
def insertEntry (e : Entry) : List Entry → List Entry
  | [] => [e]
  | x :: rest => if x.offset ≤ e.offset then x :: insertEntry e rest else e :: x :: rest

/-- ENTRY_ADD at the Plan Buffers (R29, R30). -/
def entryAddOwner (raw : RawEntry) (s : State) : Answer :=
  if s.plans.commitPending then refuse s .commitPending
  else
    match raw.check with
    | .error index => refuse s (.badValue index)
    | .ok e =>
      if s.staged.entries.any fun x => decide (x.id = e.id) then refuse s .duplicateId
      else if 64 ≤ s.staged.entries.length then refuse s .tableFull
      else okay (s.stage { s.staged with entries := insertEntry e s.staged.entries })

/-- ENTRY_ADD (R29, R30). -/
def execEntryAdd (q : Req) (s : State) : Host.Outcome State Fault Refusal :=
  requestStep 7 readEntryAdd entryAddOwner q s

/-- ENTRY_REMOVE at the Plan Buffers (R31). In a loaded table that repeats the id every row with it goes (entry 44). -/
def entryRemoveOwner (id : Nat) (s : State) : Answer :=
  edit s (firstBad [(1, decide (1 ≤ id ∧ id ≤ 255))])
    (if s.staged.entries.any fun x => decide (x.id = id) then
      okay (s.stage { s.staged with entries := s.staged.entries.filter fun x => decide (x.id ≠ id) })
    else refuse s .notFound)

/-- ENTRY_REMOVE (R31). -/
def execEntryRemove (q : Req) (s : State) : Host.Outcome State Fault Refusal :=
  requestStep 8 readOne entryRemoveOwner q s

/-! ## The window table -/

/-- WINDOW_ADD at the Plan Buffers (R32). -/
def windowAddOwner (raw : RawWindow) (s : State) : Answer :=
  if s.plans.commitPending then refuse s .commitPending
  else
    match raw.check with
    | .error index => refuse s (.badValue index)
    | .ok w =>
      if s.staged.windows.any fun x => decide (x.id = w.id) then refuse s .duplicateId
      else if 8 ≤ s.staged.windows.length then refuse s .tableFull
      else okay (s.stage { s.staged with windows := insertWindow w s.staged.windows })

/-- WINDOW_ADD (R32). -/
def execWindowAdd (q : Req) (s : State) : Host.Outcome State Fault Refusal :=
  requestStep 9 readWindowAdd windowAddOwner q s

/-- WINDOW_REMOVE at the Plan Buffers (R33). In a loaded table that repeats the id every row with it goes (entry 44). -/
def windowRemoveOwner (id : Nat) (s : State) : Answer :=
  edit s (firstBad [(1, decide (1 ≤ id ∧ id ≤ 15))])
    (if s.staged.windows.any fun x => decide (x.id = id) then
      okay (s.stage { s.staged with windows := s.staged.windows.filter fun x => decide (x.id ≠ id) })
    else refuse s .notFound)

/-- WINDOW_REMOVE (R33). -/
def execWindowRemove (q : Req) (s : State) : Host.Outcome State Fault Refusal :=
  requestStep 10 readOne windowRemoveOwner q s

/-! ## The staged plan whole -/

/-- PLAN_CLEAR at the Plan Buffers (R34). -/
def planClearOwner (_ : Unit) (s : State) : Answer := edit s none (okay (s.stage Plan.empty))

/-- PLAN_CLEAR (R34). -/
def execPlanClear (q : Req) (s : State) : Host.Outcome State Fault Refusal :=
  requestStep 11 readNothing planClearOwner q s

/-- PLAN_COPY_ACTIVE at the Plan Buffers (R35). -/
def planCopyActiveOwner (_ : Unit) (s : State) : Answer := edit s none (okay (s.stage s.plans.active))

/-- PLAN_COPY_ACTIVE (R35). -/
def execPlanCopyActive (q : Req) (s : State) : Host.Outcome State Fault Refusal :=
  requestStep 12 readNothing planCopyActiveOwner q s

/-! ## Reading plans back -/

/-- The plan a field names. -/
def State.planNamed (s : State) : PlanName → Plan
  | .staged => s.plans.staged
  | .active => s.plans.active

/-- PLAN_READ at the Plan Buffers (R37, R174). -/
def planReadOwner (which : Nat) (s : State) : Answer :=
  match PlanName.ofCode which with
  | none => refuse s (.badValue 1)
  | some .staged => ⟨s, .ok, s.plans.staged.fixedBytes, false⟩
  | some .active => ⟨s, .ok, s.plans.active.fixedBytes ++ be2 s.timeline.edges.length, false⟩

/-- PLAN_READ (R37). -/
def execPlanRead (q : Req) (s : State) : Host.Outcome State Fault Refusal := requestStep 13 readOne planReadOwner q s

/-- A page of a table: its row count, the number of rows returned, and up to 8 rows from a position on (R38, R172). -/
def pageOf {α : Type} (row : α → List Byte) (table : List α) (start : Nat) : List Byte :=
  be1 table.length ++ be1 ((table.drop start).take 8).length ++ (((table.drop start).take 8).map row).flatten

/-- ENTRY_LIST at the Plan Buffers (R38). -/
def entryListOwner (f : Nat × Nat) (s : State) : Answer :=
  match PlanName.ofCode f.1 with
  | none => refuse s (.badValue 1)
  | some which =>
    if 64 ≤ f.2 then refuse s (.badValue 2)
    else ⟨s, .ok, pageOf Entry.bytes (s.planNamed which).entries f.2, false⟩

/-- ENTRY_LIST (R38). -/
def execEntryList (q : Req) (s : State) : Host.Outcome State Fault Refusal := requestStep 14 readTwo entryListOwner q s

/-- WINDOW_LIST at the Plan Buffers, in the table's order, which is the order of id (R32, R38). -/
def windowListOwner (f : Nat × Nat) (s : State) : Answer :=
  match PlanName.ofCode f.1 with
  | none => refuse s (.badValue 1)
  | some which =>
    if 8 ≤ f.2 then refuse s (.badValue 2)
    else ⟨s, .ok, pageOf Window.bytes (s.planNamed which).windows f.2, false⟩

/-- WINDOW_LIST (R38). -/
def execWindowList (q : Req) (s : State) : Host.Outcome State Fault Refusal :=
  requestStep 15 readTwo windowListOwner q s

/-! ## Check, commit, abandon -/

/-- PLAN_CHECK at the Plan Buffers (R44). -/
def planCheckOwner (_ : Unit) (s : State) : Answer :=
  match s.staged.failure with
  | some (check, subject) => refuse s (.planInvalid check subject)
  | none => ⟨s, .ok, be2 s.staged.expand.length, false⟩

/-- PLAN_CHECK (R44). -/
def execPlanCheck (q : Req) (s : State) : Host.Outcome State Fault Refusal :=
  requestStep 16 readNothing planCheckOwner q s

/-- The last commit outcome is set. -/
def State.setOutcome (s : State) (o : CommitOutcome) : State := { s with plans := { s.plans with outcome := o } }

/-- A PLAN_COMMIT that passes the checks (R46 step 3): the staged timeline is replaced, and the swap made or waited
for. -/
def State.commit (s : State) : Answer :=
  let t : State := { s with plans := { s.plans with stagedTimeline := s.staged.expand } }
  if s.seq.mode.running then
    ⟨{ t with plans := { t.plans with commitPending := true, outcome := .pending } },
      .pending s.staged.expand.length, [], false⟩
  else ⟨t.swap.setOutcome (.applied none), .ok, be1 1 ++ be2 s.staged.expand.length, false⟩

/-- PLAN_COMMIT at the Plan Buffers (R46). -/
def planCommitOwner (_ : Unit) (s : State) : Answer :=
  if s.plans.commitPending then refuse s .commitPending
  else
    match s.staged.failure with
    | some (check, subject) => refuse (s.setOutcome .none) (.planInvalid check subject)
    | none => (s.setOutcome .none).commit

/-- PLAN_COMMIT (R46). -/
def execPlanCommit (q : Req) (s : State) : Host.Outcome State Fault Refusal :=
  requestStep 17 readNothing planCommitOwner q s

/-- PLAN_ABANDON at the Plan Buffers (R49). -/
def planAbandonOwner (_ : Unit) (s : State) : Answer :=
  match s.plans.outcome with
  | .pending => okay { s with plans := { s.plans with commitPending := false, outcome := .abandoned } }
  | .applied cycle => refuse s (.tooLate cycle)
  | .none => refuse s .noCommit
  | .abandoned => refuse s .noCommit

/-- PLAN_ABANDON (R49). -/
def execPlanAbandon (q : Req) (s : State) : Host.Outcome State Fault Refusal :=
  requestStep 18 readNothing planAbandonOwner q s

end Sys2Proof.Machine
end

