-- ==== Sys2Proof/Machine/RunControl.lean ====
section
/-! DEFINITION. RUN, FINISH and HALT (01 section 1.4). -/

namespace Sys2Proof.Machine

/-- RUN at the Cycle Controller: the three refusals in their order, then the run (R12). -/
def runOwner (count : Nat) (s : State) : Answer :=
  if s.seq.mode.running then refuse s .wrongState
  else if s.stopAsserted then refuse s .inhibited
  else if s.plans.active.hasWork then okay (s.startRun count)
  else refuse s .planEmpty

/-- RUN (R12). -/
def execRun (q : Req) (s : State) : Host.Outcome State Fault Refusal := requestStep 1 readRun runOwner q s

/-- FINISH at the Cycle Controller (R14). -/
def finishOwner (_ : Unit) (s : State) : Answer :=
  match s.seq.mode with
  | .cycling => okay { s with seq := { s.seq with finish := true } }
  | .armed => okay (s.enterHalted .finished s.seq.phase none)
  | .waiting => okay (s.enterHalted .finished s.seq.phase none)
  | .idle => refuse s .wrongState
  | .halted => refuse s .wrongState

/-- FINISH (R14). -/
def execFinish (q : Req) (s : State) : Host.Outcome State Fault Refusal := requestStep 2 readNothing finishOwner q s

/-- HALT at the Cycle Controller (R15). -/
def haltOwner (_ : Unit) (s : State) : Answer :=
  if s.seq.mode.running then okay (s.enterHalted .host s.seq.phase none) else refuse s .wrongState

/-- HALT (R15). -/
def execHalt (q : Req) (s : State) : Host.Outcome State Fault Refusal := requestStep 3 readNothing haltOwner q s

end Sys2Proof.Machine
end

