-- ==== Sys2Proof/Machine/SessionRequests.lean ====
section
/-! DEFINITION. RESTART (R124), and the requests the Request Handler answers itself (chapter 9). -/

namespace Sys2Proof.Machine

/-- The intake is set. -/
def State.setIntake (s : State) (i : Intake) : State := { s with session := { s.session with intake := i } }

/-- RESTART at the Start-up Loader (R124). -/
def restartOwner (_ : Unit) (s : State) : Answer :=
  if s.store.status = .busy then refuse s .storeBusy else okay (s.setIntake .awaitingRestart)

/-- RESTART (R124). -/
def execRestart (q : Req) (s : State) : Host.Outcome State Fault Refusal := requestStep 33 readNothing restartOwner q s

/-- The session that a HELLO opens (R153, steps 1 to 5). -/
def State.openSession (s : State) (h : Hello) : State :=
  { s with
    session :=
      { s.session with
        isOpen := true, cache := [], resend := h.resend, lapseTime := h.lapseTime,
        lapsePolicy := (Policy.ofCode h.policy).getD .notify,
        lapseTimer := if h.lapseTime = 0 then none else some 0 }
    notices := s.notices.reopened h.resend }

/-- HELLO's payload (R153, R172). -/
def State.helloPayload (s : State) : List Byte :=
  [0x55#8, 0x51#8, 0x38#8, 0x34#8] ++ be1 (Config.revisionLessOne.val + 1) ++ be1 s.startup.cause.code ++
    be1 s.seq.mode.code ++ be1 s.store.status.code ++ be2 s.notices.entries.length

/-- HELLO at the Request Handler (R153): the reply stands in the outbox before the notices become eligible (R143). DEDUCED,
unsafe (entry 50): a version other than 1 is VERSION whatever the other fields hold. -/
def helloOwner (h : Hello) (s : State) : Answer :=
  if h.version ≠ 1 then refuse s .version
  else
    match h.bad with
    | some index => refuse s (.badValue index)
    | none => ⟨s.openSession h, .ok, (s.openSession h).helloPayload, true⟩

/-- HELLO (R153). -/
def execHello (q : Req) (s : State) : Host.Outcome State Fault Refusal := requestStep 34 readHello helloOwner q s

/-- GOODBYE at the Request Handler (R154). -/
def goodbyeOwner (_ : Unit) (s : State) : Answer := okay (s.setIntake .awaitingGoodbye)

/-- GOODBYE (R154). -/
def execGoodbye (q : Req) (s : State) : Host.Outcome State Fault Refusal := requestStep 35 readNothing goodbyeOwner q s

/-- The halt record that STATUS shows: present in HALTED alone (R17, R22). -/
def State.shownHalt (s : State) : Option HaltRecord := if s.seq.mode = .halted then s.seq.halt else none

/-- The finish flag's code: set 0 and clear 1, as R156 lists them (R172; entry 13). -/
def finishCode (set : Bool) : Nat := if set then 0 else 1

/-- The filtered STOP line's code: asserted 0 and released 1, as R156 lists them (R172; entry 13). -/
def stopLineCode (asserted : Bool) : Nat := if asserted then 0 else 1

/-- STATUS's payload (R22, R156). -/
def State.statusPayload (s : State) : List Byte :=
  be1 s.seq.mode.code ++ be4 s.seq.cycle.toNat ++ be3 s.seq.phase ++ optItem (s.shownHalt.map HaltRecord.bytes) ++
    be1 (finishCode s.seq.finish) ++ optItem (s.seq.remaining.map be2) ++ be1 (yesNo s.plans.commitPending) ++
    be1 s.captures.records.length ++ be2 s.notices.entries.length ++ be1 s.store.status.code ++
    be1 (stopLineCode s.stopAsserted) ++ be1 s.holdMask

/-- STATUS at the Request Handler (R156). -/
def statusOwner (_ : Unit) (s : State) : Answer := ⟨s, .ok, s.statusPayload, false⟩

/-- STATUS (R156). -/
def execStatus (q : Req) (s : State) : Host.Outcome State Fault Refusal := requestStep 36 readNothing statusOwner q s

/-! ## Counters (R157, R158) -/

/-- The four counters of a channel (R60). -/
def ChannelTally.bytes (t : ChannelTally) : List Byte :=
  be4 t.applied ++ be4 t.gatedOff ++ be4 t.suppressed ++ be4 t.truncated

/-- The three counters of an input (R90). -/
def InputTally.bytes (t : InputTally) : List Byte := be4 t.stored ++ be4 t.dropped ++ be4 t.early

/-- The three counters of a window id (R98). -/
def WindowTally.bytes (t : WindowTally) : List Byte := be4 t.met ++ be4 t.missed ++ be4 t.cut

/-- The ten link counters (R145). -/
def LinkCounters.bytes (c : LinkCounters) : List Byte :=
  be4 c.framesGood ++ be4 c.gap ++ be4 c.crc ++ be4 c.lengthError ++ be4 c.badBody ++ be4 c.overrun ++
    be4 c.lineError ++ be4 c.staleAck ++ be4 c.repliesSent ++ be4 c.noticesSent

/-- A first hit, shown when the window is MET (R98). -/
def Watch.shownHit (w : Watch) : Option Nat := if w.state = .met then w.hit else none

/-- What COUNTERS_READ says of a window id (R98, R172). DESIGN CHOICE, unsafe (entry 46): of an id that a loaded table repeats
(entry 39) the first row's state and first hit are shown. -/
def Monitor.idBytes (m : Monitor) (k : Fin 15) : List Byte :=
  (match m.table.find? fun w => decide (w.window.id = k.val + 1) with
    | some w => be1 1 ++ be1 w.state.code ++ optItem (w.shownHit.map be3)
    | none => be1 0) ++ (m.tallies.get k).bytes

/-- A group's counters as their owner holds them (R157). -/
def State.groupBytes (s : State) : Group → List Byte
  | .channels => (s.timeline.tallies.cells.map ChannelTally.bytes).flatten
  | .inputs => (s.captures.tallies.cells.map InputTally.bytes).flatten
  | .windows => (List.ofFn s.monitor.idBytes).flatten
  | .link => s.link.counters.bytes

/-- COUNTERS_READ at the Request Handler (R157). -/
def countersReadOwner (n : Nat) (s : State) : Answer :=
  match Group.ofCode n with
  | none => refuse s (.badValue 1)
  | some g => ⟨s, .ok, s.groupBytes g, false⟩

/-- COUNTERS_READ (R157). -/
def execCountersRead (q : Req) (s : State) : Host.Outcome State Fault Refusal :=
  requestStep 37 readOne countersReadOwner q s

/-- A group's counters are set to 0 (R158). -/
def State.groupCleared (s : State) : Group → State
  | .channels => { s with timeline := { s.timeline with tallies := Row.fill 8 ⟨0, 0, 0, 0⟩ } }
  | .inputs => { s with captures := { s.captures with tallies := Row.fill 4 ⟨0, 0, 0⟩ } }
  | .windows => { s with monitor := { s.monitor with tallies := Row.fill 15 ⟨0, 0, 0⟩ } }
  | .link => { s with link := { s.link with counters := LinkCounters.zero } }

/-- COUNTERS_CLEAR at the Request Handler (R158). -/
def countersClearOwner (n : Nat) (s : State) : Answer :=
  match Group.ofCode n with
  | none => refuse s (.badValue 1)
  | some g => okay (s.groupCleared g)

/-- COUNTERS_CLEAR (R158). -/
def execCountersClear (q : Req) (s : State) : Host.Outcome State Fault Refusal :=
  requestStep 38 readOne countersClearOwner q s

end Sys2Proof.Machine
end

