-- ==== Sys2Proof/Machine/StoreEvents.lean ====
section
/-! DEFINITION. The commands of the media and of resets (chapters 6 and 7). -/

namespace Sys2Proof.Machine

/-- PROGRAM_STEP_END (R100): the step under way, if it programs a row, ends and is verified. -/
def execProgramStepEnd (faults : List Host.Cell) (s : State) : Host.Outcome State Fault Refusal :=
  if s.live = false then .next s
  else
    match s.store.job with
    | none => .next s
    | some job =>
      match job.steps with
      | [] => .next s
      | step :: rest =>
        match step.act with
        | .erase _ => .next s
        | .program bank offset data =>
          if Config.bankSize < offset + data.length then .fault .mediaOutside
          else .next (s.programEnds faults job step rest bank offset data).arbitrate

/-- ERASE_END (R100): the step under way, if it erases a bank, ends and is verified. -/
def execEraseEnd (faults : List Host.Cell) (s : State) : Host.Outcome State Fault Refusal :=
  .next
    (if s.live then
      match s.store.job with
      | none => s
      | some job =>
        match job.steps with
        | [] => s
        | step :: rest =>
          match step.act with
          | .erase bank => (s.eraseEnds faults job step rest bank).arbitrate
          | .program _ _ _ => s
    else s)

/-- The results of a scan that has ended, in the stage that waits for them (R127). -/
def State.scanResult (s : State) : Option (Directory × ScanReport) :=
  if s.live = true ∧ s.startup.stage = .scanning then s.store.job.bind Job.scanResult else none

/-- STORE_SCAN_END (R121, R127): it is the end once no repair is left to make. -/
def execStoreScanEnd (s : State) : Host.Outcome State Fault Refusal :=
  .next
    (match s.scanResult with
      | some r => s.scanEnds r.1 r.2
      | none => s)

/-- POWER_UP (R123). -/
def execPowerUp (torn : List Host.Cell) (s : State) : Host.Outcome State Fault Refusal :=
  .next (s.resetBy .power torn true)

/-- RESET_LINE (R123): a part without power has nothing to reset (entry 24). -/
def execResetLine (torn : List Host.Cell) (s : State) : Host.Outcome State Fault Refusal :=
  .next (if s.startup.powered then s.resetBy .resetLine torn true else s)

/-- RESET_END (R126): stages 1 and 2, and the begin of stage 3. -/
def execResetEnd (rate1 rate0 : Wire) (s : State) : Host.Outcome State Fault Refusal :=
  .next (if s.startup.powered = true ∧ s.startup.stage = .inReset then s.begins rate1 rate0 else s)

/-- POWER_LOSS (R100): everything but the media is lost, and the part is without power until POWER_UP (entry 24). -/
def execPowerLoss (torn : List Host.Cell) (s : State) : Host.Outcome State Fault Refusal :=
  .next (if s.startup.powered then s.resetBy .power torn false else s)

end Sys2Proof.Machine
end

