-- ==== Sys2Proof/Machine/StoreRequests.lean ====
section
/-! DEFINITION. The seven requests of the Profile Store (chapter 6). -/

namespace Sys2Proof.Machine

/-- The order in which a request that writes is examined: a field out of range, BUSY, READ_ONLY, the rest (R106). -/
def writing (s : State) (bad : Option Nat) (rest : Answer) : Answer :=
  match bad with
  | some index => refuse s (.badValue index)
  | none =>
    if s.store.status = .busy then refuse s .storeBusy
    else if s.store.status = .readOnly then refuse s .storeReadOnly
    else rest

/-- An accepted operation: the ACCEPTED reply stands in the outbox before anything the operation raises (R106). -/
def accepted (s : State) : Answer := ⟨s, .accepted, [], true⟩

/-- The current bank; a store that is written to has one (entry 38). -/
def State.bank (s : State) : Bank := s.store.dir.bank.getD .a

/-- The operation of writing one record (R107, R109, R111): straight away where it fits, behind a compaction where it
does not, and ended at once where wear blocks the first erase of that compaction (R114). -/
def State.writeRecord (s : State) (op : StoreOp) (size : Nat) (steps : Directory → Bank → List MediaStep) : State :=
  if size ≤ s.store.dir.free then s.beginOp op (steps s.store.dir s.bank) false
  else if s.media.mustErase s.bank.other && s.media.wornOut s.bank.other then s.endOp op .verifyFailed false false
  else
    s.beginOp op
      ((compactionSteps s.media s.store.dir s.bank).1 ++ steps (s.store.dir.repacked s.bank.other) s.bank.other)
      (compactionSteps s.media s.store.dir s.bank).2

/-- The range checks of PROFILE_SAVE (R107). -/
def saveBad (f : Nat × List Byte) : Option Nat := firstBad [(1, decide (f.1 < 8)), (2, nameOk f.2)]

/-- PROFILE_SAVE at the Profile Store (R106, R107): the body is the active plan as it stands now (R39). -/
def profileSaveOwner (f : Nat × List Byte) (s : State) : Answer :=
  writing s (saveBad f)
    (match finOfCode 8 f.1 with
      | some slot =>
        accepted
          (s.writeRecord (.save slot) (recordSize s.plans.active.bytes.length) fun d bank =>
            saveSteps d bank slot f.2 s.plans.active.bytes)
      | none => refuse s (.badValue 1))

/-- PROFILE_SAVE (R107). -/
def execProfileSave (q : Req) (s : State) : Host.Outcome State Fault Refusal :=
  requestStep 26 readSave profileSaveOwner q s

/-- The one step of a delete (R110). -/
def deleteSteps (bank : Bank) (slot : Fin 8) (e : DirEntry) : List MediaStep :=
  [marking bank e.offset deadByte false [.madeDead (recordSize e.bodyLength), .slotEmptied slot]]

/-- PROFILE_DELETE at the Profile Store (R110). -/
def profileDeleteOwner (n : Nat) (s : State) : Answer :=
  match finOfCode 8 n with
  | none => refuse s (.badValue 1)
  | some slot =>
    writing s none
      (match s.store.dir.slots.get slot with
        | some e => accepted (s.beginOp (.delete slot) (deleteSteps s.bank slot e) false)
        | none => refuse s .emptySlot)

/-- PROFILE_DELETE (R110). -/
def execProfileDelete (q : Req) (s : State) : Host.Outcome State Fault Refusal :=
  requestStep 27 readOne profileDeleteOwner q s

/-- A BOOT_SET writes its record (R111). -/
def State.selectBoot (s : State) (selected : Option (Fin 8)) (autoRun : Bool) : Answer :=
  accepted
    (s.writeRecord (.bootSet selected) (recordSize 2) fun d bank => bootSteps d bank selected autoRun)

/-- BOOT_SET at the Profile Store (R111). -/
def bootSetOwner (f : Nat × Nat) (s : State) : Answer :=
  match slotOrNone f.1 with
  | none => refuse s (.badValue 1)
  | some selected =>
    writing s (firstBad [(2, decide (f.2 ≤ 1))])
      (match selected with
        | none => s.selectBoot none (decide (f.2 = 1))
        | some slot =>
          if (s.store.dir.slots.get slot).isSome then s.selectBoot (some slot) (decide (f.2 = 1))
          else refuse s .emptySlot)

/-- BOOT_SET (R111). -/
def execBootSet (q : Req) (s : State) : Host.Outcome State Fault Refusal := requestStep 28 readTwo bootSetOwner q s

/-- The store reads both erase counts (R101, R112): from then on STORE_STATUS reports what was taken (R118). -/
def State.readCounts (s : State) : State :=
  { s with store := { s.store with countA := s.media.takenCount .a, countB := s.media.takenCount .b } }

/-- The directory of a store that is being formatted (R112; entry 27). -/
def State.emptyDirectory (s : State) : State := { s with store := { s.store with dir := Directory.blank } }

/-- STORE_FORMAT at the Profile Store (R112): taken in READ_ONLY too (R106). -/
def storeFormatOwner (_ : Unit) (s : State) : Answer :=
  if s.store.status = .busy then refuse s .storeBusy
  else if s.media.formatBlocked then accepted (s.readCounts.endOp .format .verifyFailed false false)
  else accepted (s.readCounts.emptyDirectory.beginOp .format (formatSteps s.media [] [.formatted]) false)

/-- STORE_FORMAT (R112). -/
def execStoreFormat (q : Req) (s : State) : Host.Outcome State Fault Refusal :=
  requestStep 29 readNothing storeFormatOwner q s

/-- A load that finds a slot's entry: the record read, or found bad (R116 step 5). -/
def State.loadEntry (s : State) (e : DirEntry) : Answer :=
  match s.readProfile e with
  | some p => okay { s with plans := { s.plans with staged := p } }
  | none => refuse s .recordBad

/-- PROFILE_LOAD at the Profile Store and the Plan Buffers (R36, R116). -/
def profileLoadOwner (n : Nat) (s : State) : Answer :=
  match finOfCode 8 n with
  | none => refuse s (.badValue 1)
  | some slot =>
    if s.store.status = .busy then refuse s .storeBusy
    else if s.plans.commitPending then refuse s .commitPending
    else
      match s.store.dir.slots.get slot with
      | none => refuse s .emptySlot
      | some e => s.loadEntry e

/-- PROFILE_LOAD (R116). -/
def execProfileLoad (q : Req) (s : State) : Host.Outcome State Fault Refusal :=
  requestStep 30 readOne profileLoadOwner q s

/-- What a listing says of a slot (R117, R172). -/
def slotBytes : Option DirEntry → List Byte
  | none => be1 0
  | some e => be1 1 ++ be1 e.name.length ++ e.name ++ be2 e.bodyLength ++ be4 e.writeNumber

/-- What a listing says of the boot selection (R117). -/
def bootBytes : Option BootEntry → List Byte
  | none => orFF none ++ be1 0
  | some b => orFF (b.selected.map Fin.val) ++ be1 (yesNo b.autoRun)

/-- PROFILE_LIST at the Profile Store (R117). -/
def profileListOwner (_ : Unit) (s : State) : Answer :=
  ⟨s, .ok, (s.store.dir.slots.cells.map slotBytes).flatten ++ bootBytes s.store.dir.boot, false⟩

/-- PROFILE_LIST (R117). -/
def execProfileList (q : Req) (s : State) : Host.Outcome State Fault Refusal :=
  requestStep 31 readNothing profileListOwner q s

/-- A compaction is under way: the step under way is one of its own (R118). -/
def Job.compacting (j : Job) : Bool :=
  match j.steps with
  | step :: _ => step.compacting
  | [] => false

/-- What STORE_STATUS says of the operation in progress (R118). -/
def Job.statusBytes (j : Job) : Option (List Byte) :=
  match j.kind with
  | .op op => some (be1 op.code ++ orFF (op.slot.map Fin.val) ++ be1 (yesNo j.compacting))
  | .scan _ _ _ => none

/-- STORE_STATUS at the Profile Store (R118). -/
def storeStatusOwner (_ : Unit) (s : State) : Answer :=
  ⟨s, .ok,
    be1 s.store.status.code ++ be1 (bankCode s.store.dir.bank) ++ be2 s.store.dir.free ++ be2 s.store.dir.dead ++
      be4 s.store.countA ++ be4 s.store.countB ++ optItem (s.store.job.bind Job.statusBytes), false⟩

/-- STORE_STATUS (R118). -/
def execStoreStatus (q : Req) (s : State) : Host.Outcome State Fault Refusal :=
  requestStep 32 readNothing storeStatusOwner q s

end Sys2Proof.Machine
end

