-- ==== Sys2Proof/Machine/TimingEvents.lean ====
section
/-! DEFINITION. The commands of the lines, the cycle and their timers (chapters 1 to 5). Each takes effect while the part
is live and its happening is due, and changes nothing otherwise (entry 5). -/

namespace Sys2Proof.Machine

/-- A filtered edge of an input: the filter settles, and the three blocks take the edge (R74, R77); which of Window
Monitor and Cycle Controller is first is free (entry 3). -/
def State.inputEdges (s : State) (i : Fin 4) (d : Slope) : State :=
  let t : State := { s.onInput i Filter.settle with choices := s.choices + 1 }
  t.takeInputEdge i d (Config.monitorFirst s.choices)

/-- INPUT_EDGE (R74, R77). -/
def execInputEdge (i : Fin 4) (d : Slope) (s : State) : Host.Outcome State Fault Refusal :=
  .next (if s.live && s.inputDue i d then (s.inputEdges i d).arbitrate else s)

/-- The STOP filter settles (R74). -/
def State.settleStop (s : State) : State :=
  { s with filters := { s.filters with stop := s.filters.stop.settle } }

/-- The filtered STOP line asserts: the Output Drivers and the Cycle Controller take it (R20, R71). -/
def State.stops (s : State) : State :=
  let t := s.settleStop.onChannels Channel.stopped
  if s.seq.mode.running then t.enterHalted .stopLine s.seq.phase none else t

/-- STOP_ASSERTED (R20, R71). -/
def execStopAsserted (s : State) : Host.Outcome State Fault Refusal :=
  .next (if s.live && s.stopDue .fall then s.stops.arbitrate else s)

/-- STOP_RELEASED: nothing but the filtered line changes (R21, R72). -/
def execStopReleased (s : State) : Host.Outcome State Fault Refusal :=
  .next (if s.live && s.stopDue .rise then s.settleStop else s)

/-- TIMELINE_EDGE (R52, R53). -/
def execTimelineEdge (s : State) : Host.Outcome State Fault Refusal :=
  .next
    (match s.edgeDue with
      | some e => if s.live then s.takeEdge e else s
      | none => s)

/-- END_OF_CYCLE (R6, R7). -/
def execEndOfCycle (s : State) : Host.Outcome State Fault Refusal :=
  .next (if s.live && s.cycleEndDue then s.endCycle.arbitrate else s)

/-- A window with an id opens at the present phase (R93). -/
def Monitor.openOne (m : Monitor) (id phase : Nat) : Monitor :=
  { m with table := m.table.map fun w => if w.window.id = id then w.openAt phase else w }

/-- WINDOW_OPEN (R93). -/
def execWindowOpen (id : Nat) (s : State) : Host.Outcome State Fault Refusal :=
  .next (if s.live && s.openDue id then { s with monitor := s.monitor.openOne id s.seq.phase } else s)

/-- WINDOW_CLOSE (R96). -/
def execWindowClose (s : State) : Host.Outcome State Fault Refusal :=
  .next (if s.live && s.closeDue then (s.closeAndReport s.seq.phase).arbitrate else s)

/-- The wait timer expires: STARVED, and a halt under policy HALT (R11). -/
def State.starves (s : State) : State :=
  let t := State.raise { s with seq := { s.seq with wait := none } } (.merging .starved s.seq.cycle)
  match s.block.starvePolicy with
  | .notify => t
  | .halt => t.enterHalted .starved s.seq.phase (some s.block.startInput.val)

/-- WAIT_TIMER_EXPIRY (R11). -/
def execWaitTimerExpiry (s : State) : Host.Outcome State Fault Refusal :=
  .next (if s.live && s.starveDue then s.starves.arbitrate else s)

/-- MANUAL_PULSE_EXPIRY (R67). -/
def execManualPulseExpiry (c : Fin 8) (s : State) : Host.Outcome State Fault Refusal :=
  .next (if s.live && (s.channels.get c).pulseDue then s.onChannel c Channel.pulseOver else s)

/-- The filters sample: not in reset, and from the first tick after it (R73, R125; entry 28). -/
def State.sampling (s : State) : Bool := s.live && decide (1 ≤ s.filters.settle)

/-- A raw level reaches its filter: sampled, or while nothing samples only standing at the pin. -/
def Filter.rawChange (sampling : Bool) (level : Wire) (f : Filter) : Filter :=
  if sampling then f.sample level else { f with raw := level }

/-- RAW_LINE_CHANGE (R74): the last level of a tick before its edge is taken is the tick's sample (entries 28, 40). -/
def execRawLineChange (line : Line) (level : Wire) (s : State) : Host.Outcome State Fault Refusal :=
  .next
    (match line with
      | .input i => s.onInput i (Filter.rawChange s.sampling level)
      | .stop => { s with filters := { s.filters with stop := s.filters.stop.rawChange s.sampling level } })

end Sys2Proof.Machine
end

