-- ==== Sys2Proof/Machine/Dispatch.lean ====
section
/-! DEFINITION. The one dispatch: each command to its meaning. -/

namespace Sys2Proof.Machine

def exec (i : Instr) (s : State) : Host.Outcome State Fault Refusal :=
  match i with
  | .run q => Sys2Proof.Machine.execRun q s
  | .finish q => Sys2Proof.Machine.execFinish q s
  | .halt q => Sys2Proof.Machine.execHalt q s
  | .planSetCycle q => Sys2Proof.Machine.execPlanSetCycle q s
  | .planSetChannel q => Sys2Proof.Machine.execPlanSetChannel q s
  | .planSetInput q => Sys2Proof.Machine.execPlanSetInput q s
  | .entryAdd q => Sys2Proof.Machine.execEntryAdd q s
  | .entryRemove q => Sys2Proof.Machine.execEntryRemove q s
  | .windowAdd q => Sys2Proof.Machine.execWindowAdd q s
  | .windowRemove q => Sys2Proof.Machine.execWindowRemove q s
  | .planClear q => Sys2Proof.Machine.execPlanClear q s
  | .planCopyActive q => Sys2Proof.Machine.execPlanCopyActive q s
  | .planRead q => Sys2Proof.Machine.execPlanRead q s
  | .entryList q => Sys2Proof.Machine.execEntryList q s
  | .windowList q => Sys2Proof.Machine.execWindowList q s
  | .planCheck q => Sys2Proof.Machine.execPlanCheck q s
  | .planCommit q => Sys2Proof.Machine.execPlanCommit q s
  | .planAbandon q => Sys2Proof.Machine.execPlanAbandon q s
  | .channelHold q => Sys2Proof.Machine.execChannelHold q s
  | .channelSet q => Sys2Proof.Machine.execChannelSet q s
  | .channelPulse q => Sys2Proof.Machine.execChannelPulse q s
  | .channelRelease q => Sys2Proof.Machine.execChannelRelease q s
  | .captureRead q => Sys2Proof.Machine.execCaptureRead q s
  | .captureFlush q => Sys2Proof.Machine.execCaptureFlush q s
  | .captureWatermark q => Sys2Proof.Machine.execCaptureWatermark q s
  | .profileSave q => Sys2Proof.Machine.execProfileSave q s
  | .profileDelete q => Sys2Proof.Machine.execProfileDelete q s
  | .bootSet q => Sys2Proof.Machine.execBootSet q s
  | .storeFormat q => Sys2Proof.Machine.execStoreFormat q s
  | .profileLoad q => Sys2Proof.Machine.execProfileLoad q s
  | .profileList q => Sys2Proof.Machine.execProfileList q s
  | .storeStatus q => Sys2Proof.Machine.execStoreStatus q s
  | .restart q => Sys2Proof.Machine.execRestart q s
  | .hello q => Sys2Proof.Machine.execHello q s
  | .goodbye q => Sys2Proof.Machine.execGoodbye q s
  | .status q => Sys2Proof.Machine.execStatus q s
  | .countersRead q => Sys2Proof.Machine.execCountersRead q s
  | .countersClear q => Sys2Proof.Machine.execCountersClear q s
  | .ack number => Sys2Proof.Machine.execAck number s
  | .frameReceived bytes => Sys2Proof.Machine.execFrameReceived bytes s
  | .gapTimerExpiry => Sys2Proof.Machine.execGapTimerExpiry s
  | .transmitFrameEnd => Sys2Proof.Machine.execTransmitFrameEnd s
  | .lapse => Sys2Proof.Machine.execLapse s
  | .resendTimerExpiry number => Sys2Proof.Machine.execResendTimerExpiry number s
  | .inputEdge input d => Sys2Proof.Machine.execInputEdge input d s
  | .stopAsserted => Sys2Proof.Machine.execStopAsserted s
  | .stopReleased => Sys2Proof.Machine.execStopReleased s
  | .timelineEdge => Sys2Proof.Machine.execTimelineEdge s
  | .endOfCycle => Sys2Proof.Machine.execEndOfCycle s
  | .windowOpen id => Sys2Proof.Machine.execWindowOpen id s
  | .windowClose => Sys2Proof.Machine.execWindowClose s
  | .waitTimerExpiry => Sys2Proof.Machine.execWaitTimerExpiry s
  | .manualPulseExpiry c => Sys2Proof.Machine.execManualPulseExpiry c s
  | .programStepEnd faults => Sys2Proof.Machine.execProgramStepEnd faults s
  | .eraseEnd faults => Sys2Proof.Machine.execEraseEnd faults s
  | .storeScanEnd => Sys2Proof.Machine.execStoreScanEnd s
  | .powerUp torn => Sys2Proof.Machine.execPowerUp torn s
  | .resetLine torn => Sys2Proof.Machine.execResetLine torn s
  | .resetEnd rate1 rate0 => Sys2Proof.Machine.execResetEnd rate1 rate0 s
  | .characterReceived byte lineError => Sys2Proof.Machine.execCharacterReceived byte lineError s
  | .rawLineChange line level => Sys2Proof.Machine.execRawLineChange line level s
  | .powerLoss torn => Sys2Proof.Machine.execPowerLoss torn s

end Sys2Proof.Machine
end

