-- ==== Sys2Proof/Machine/Clock.lean ====
section
/-! DEFINITION. The part's own clock (R1): what an empty queue's step does. One happening that is due in the present tick
is taken, or, with none due, the tick advances (entries 1, 2). -/

namespace Sys2Proof.Machine

/-! ## The tick -/

/-- The Cycle Controller's tick: the phase advances in CYCLING up to the end of the cycle, the wait timer runs in the
other states (R1, R11; entry 12). -/
def Sequencer.tick (length : Nat) (q : Sequencer) : Sequencer :=
  match q.mode with
  | .cycling => if q.phase + 1 < length then { q with phase := q.phase + 1 } else { q with endDue := true }
  | _ => { q with wait := q.wait.map fun n => n + 1 }

/-- The filters' tick, under the depths of the active plan (R74, R75). -/
def Filters.tick (p : Plan) (f : Filters) : Filters where
  inputs := f.inputs.mapIdx fun i g => g.tick (p.inputs.get i).depth
  stop := f.stop.tick Config.stopDepth
  settle := min Config.settleTicks (f.settle + 1)

/-- One tick of everything that counts ticks (R1, R11, R67, R74, R137, R155, R165). -/
def State.tick (s : State) : State :=
  { s with
    seq := s.seq.tick s.block.length
    channels := s.channels.mapIdx fun _ c => c.tick
    filters := s.filters.tick s.plans.active
    notices := { s.notices with entries := s.notices.entries.map Notice.tick }
    link := { s.link with asm := { s.link.asm with gap := s.link.asm.gap.map fun n => n + 1 } }
    session := { s.session with lapseTimer := s.session.lapseTimer.map fun n => n + 1 } }

/-! ## What is due -/

/-- A happening of the present tick: a command's, the taking of the waiting frame (R147), or stages 6 and 7 (R131). -/
inductive Due where
  | command (c : Instr)
  | takeFrame (f : Frame)
  | runStage
deriving DecidableEq, Repr

/-- The request of a code in the catalogue of 09 section 9.6, whose places count from 1 (R171). -/
def requestOf (code : Nat) (q : Req) : Option Instr :=
  match code with
  | 1 => some (.run q)
  | 2 => some (.finish q)
  | 3 => some (.halt q)
  | 4 => some (.planSetCycle q)
  | 5 => some (.planSetChannel q)
  | 6 => some (.planSetInput q)
  | 7 => some (.entryAdd q)
  | 8 => some (.entryRemove q)
  | 9 => some (.windowAdd q)
  | 10 => some (.windowRemove q)
  | 11 => some (.planClear q)
  | 12 => some (.planCopyActive q)
  | 13 => some (.planRead q)
  | 14 => some (.entryList q)
  | 15 => some (.windowList q)
  | 16 => some (.planCheck q)
  | 17 => some (.planCommit q)
  | 18 => some (.planAbandon q)
  | 19 => some (.channelHold q)
  | 20 => some (.channelSet q)
  | 21 => some (.channelPulse q)
  | 22 => some (.channelRelease q)
  | 23 => some (.captureRead q)
  | 24 => some (.captureFlush q)
  | 25 => some (.captureWatermark q)
  | 26 => some (.profileSave q)
  | 27 => some (.profileDelete q)
  | 28 => some (.bootSet q)
  | 29 => some (.storeFormat q)
  | 30 => some (.profileLoad q)
  | 31 => some (.profileList q)
  | 32 => some (.storeStatus q)
  | 33 => some (.restart q)
  | 34 => some (.hello q)
  | 35 => some (.goodbye q)
  | 36 => some (.status q)
  | 37 => some (.countersRead q)
  | 38 => some (.countersClear q)
  | _ => none

/-- The waiting frame is taken: an acknowledgement, a request of the catalogue, or one with an unknown code (R147,
R148 step 4). -/
def State.takeFrame (s : State) (f : Frame) : Host.Outcome State Fault Refusal :=
  match f.body with
  | t :: tag :: code :: params =>
    if t = 0x04#8 then exec (.ack (BitVec.ofNat 16 (fromBe [tag, code]))) s
    else
      match requestOf code.toNat ⟨tag, f.crc, params⟩ with
      | some c => exec c s
      | none =>
        .next
          (s.takeRequest code.toNat ⟨tag, f.crc, params⟩ fun t =>
            t.examine code.toNat ⟨tag, f.crc, params⟩ unknownOwner)
  | _ => .next s.cleared

/-- A frame waits that may be taken: an acknowledgement always, a request when the intake allows it (R147). -/
def State.frameDue (s : State) : List Due :=
  match s.link.waiting with
  | none => []
  | some f => if f.body.head? = some 0x04#8 ∨ s.canTake = true then [.takeFrame f] else []

/-- A command when its happening is due. -/
def dueIf (b : Bool) (c : Instr) : List Due := if b then [.command c] else []

/-- The windows that open at the present phase. -/
def State.opensDue (s : State) : List Due :=
  (s.monitor.table.map fun w => w.window.id).flatMap fun id => dueIf (s.openDue id) (.windowOpen id)

/-- The happenings of the cycle that are due. -/
def State.cycleDue (s : State) : List Due :=
  dueIf s.edgeDue.isSome .timelineEdge ++ dueIf s.cycleEndDue .endOfCycle ++ s.opensDue ++ dueIf s.closeDue .windowClose ++
    dueIf s.starveDue .waitTimerExpiry

/-- The happenings of the lines that are due. -/
def State.linesDue (s : State) : List Due :=
  (List.finRange 4).flatMap (fun i =>
      dueIf (s.inputDue i .rise) (.inputEdge i .rise) ++ dueIf (s.inputDue i .fall) (.inputEdge i .fall)) ++
    dueIf (s.stopDue .fall) .stopAsserted ++ dueIf (s.stopDue .rise) .stopReleased ++
    (List.finRange 8).flatMap fun c => dueIf (s.channels.get c).pulseDue (.manualPulseExpiry c)

/-- The happenings of the link that are due. -/
def State.linkDue (s : State) : List Due :=
  dueIf s.link.asm.complete (.frameReceived s.link.asm.held) ++ dueIf s.gapDue .gapTimerExpiry ++
    dueIf s.lapseDue .lapse ++
    s.notices.entries.flatMap (fun n => dueIf n.timerDue (.resendTimerExpiry (BitVec.ofNat 16 n.number))) ++ s.frameDue

/-- Every happening that is due in the present tick. -/
def State.dueAll (s : State) : List Due :=
  s.cycleDue ++ s.linesDue ++ s.linkDue ++ if s.runStageDue then [.runStage] else []

/-- A due happening is taken. -/
def State.takeDue (s : State) : Due → Host.Outcome State Fault Refusal
  | .command c => exec c s
  | .takeFrame f => s.takeFrame f
  | .runStage => .next s.runStage

/-- A step with no command waiting: the one happening that is due, one of several by a free choice (entry 2), or the
next tick. -/
def State.idle (s : State) : Host.Outcome State Fault Refusal :=
  if s.live then
    match s.dueAll with
    | [] => .next s.tick
    | [d] => s.takeDue d
    | d :: rest =>
      ({ s with choices := s.choices + 1 } : State).takeDue
        ((d :: rest).getD (Config.pick s.choices % (d :: rest).length) d)
  else .next s

end Sys2Proof.Machine
end

