-- ==== Sys2Proof/Safety.lean ====
section
/-! DEFINITION. The terms that statements about the UQ84 are made in: requests that are answered, what an answer leaves
alone, what a halt and a cycle start are, and the invariants of its blocks. -/

namespace Sys2Proof.Machine

/-! ## Requests and replies -/

/-- A notice without the marks that sending it sets. -/
def Notice.unmarked (n : Notice) : Notice := { n with sent := false, shown := false, timer := none }

/-- A state without what taking a request and sending frames touches: the waiting frame, the outbox, the transmitter,
the reply cache, the marks of notices, and the model's counter of choices. -/
def State.quiet (s : State) : State :=
  { s with
    link := { s.link with waiting := none, outbox := [], tx := .idle }
    session := { s.session with cache := [] }
    notices := { s.notices with entries := s.notices.entries.map Notice.unmarked }
    choices := 0 }

/-- Two states are the same but for the traffic of replies. -/
def State.agrees (t u : State) : Prop := t.quiet = u.quiet

/-- No frame waits but, at most, the request's own, which taking the waiting frame finds there (R140, R147). -/
def State.admits (s : State) (code : Nat) (q : Req) : Prop :=
  s.link.waiting = none ∨ s.link.waiting = some (requestFrame code q)

/-- A request with a code can be taken and examined: the part is live, start-up COMPLETE, the session OPEN, the intake
TAKING with room in the outbox (R147), no other frame waiting (R140), and no cached reply to it (R150). -/
def State.ready (s : State) (code : Nat) (q : Req) : Prop :=
  s.live = true ∧ s.startup.stage = .complete ∧ s.session.isOpen = true ∧ s.canTake = true ∧ s.admits code q ∧
    s.cachedReply code q = none

/-- A reply waits in the outbox, or its frame is being sent (R141, R142). -/
def State.replied (t : State) (r : Reply) : Prop :=
  r ∈ t.link.outbox ∨ t.link.tx = .sending (.reply r.code r.status) (frameOf r.body)

/-- A request's command answers a next state that agrees with `u`, and its one reply carries a status and a payload;
no frame waits any more (R147, R149). -/
def Answers (c : Instr) (s : State) (code : Nat) (q : Req) (u : State) (status : Status) (payload : List Byte) : Prop :=
  ∃ t, exec c s = .next t ∧ t.agrees u ∧ t.replied (replyTo code q status payload) ∧ t.link.waiting = none

/-- What no request but HELLO, GOODBYE, RESTART and COUNTERS_CLEAR changes of the link and the session: the rate, the
assembler, the counters, the session's parameters, its timer and the intake; nor the queue of commands. -/
def LinkKept (s t : State) : Prop :=
  t.link.rate = s.link.rate ∧ t.link.asm = s.link.asm ∧ t.link.counters = s.link.counters ∧
  ({ t.session with cache := [] } : Session) = { s.session with cache := [] } ∧ t.pending = s.pending

/-- CHARACTER_RECEIVED of each of some bytes in turn leads from one state to another, with the check of the frame that they
complete last (R136, R138). -/
def FedTo : List Byte → State → State → Prop
  | [], s, t =>
    (s.link.asm.complete = false → t = s) ∧
      (s.link.asm.complete = true → exec (.frameReceived s.link.asm.held) s = .next t)
  | b :: rest, s, t => ∃ u, exec (.characterReceived b false) s = .next u ∧ FedTo rest u t

/-! ## Notices -/

/-- A notice queue is another but for the marks that sending sets: sent, shown and the resend timers. -/
def Notices.like (q' q : Notices) : Prop :=
  q'.entries.map Notice.unmarked = q.entries.map Notice.unmarked ∧ q'.next = q.next ∧ q'.resend = q.resend

/-- The number that a queue issues next (R160): the first from `next` on, round from 65,535 to 1, that no entry
carries. -/
def Notices.issues (q : Notices) (number : Nat) : Prop :=
  ∃ skipped, number = (q.next - 1 + skipped) % 65535 + 1 ∧ (∀ n ∈ q.entries, n.number ≠ number) ∧
    ∀ j, j < skipped → ∃ n ∈ q.entries, n.number = (q.next - 1 + j) % 65535 + 1

/-- An entry has been created in a queue, last, with a fresh number; a merging one and NOTICE_LOSS have it for their
origin (R159, R161 to R163). -/
def Notices.gained (q q' : Notices) (content : Content) (merges : Bool) : Prop :=
  ∃ k, q.issues k ∧
    q' =
      { q with
        entries := q.entries ++ [⟨k, content, 1, if merges = true then k else 0, false, false, none⟩]
        next := k % 65535 + 1 }

/-- An occurrence has merged into an entry of a queue (R161): in its place, unsent, the count one higher, renumbered if its
number had been shown. -/
def Notices.merged (before : List Notice) (n : Notice) (after : List Notice) (q q' : Notices) (content : Content) : Prop :=
  (n.shown = false →
    q' =
      { q with
        entries := before ++ { n with content := content, count := min 65535 (n.count + 1), sent := false } :: after }) ∧
  (n.shown = true →
    ∃ k, q.issues k ∧
      q' =
        { q with
          entries :=
            before ++
              { n with
                number := k, content := content, count := min 65535 (n.count + 1), sent := false, shown := false } ::
                after
          next := k % 65535 + 1 })

/-! ## Timeline edges (R52 to R57) -/

/-- From `s`, an edge has been taken in `t` (R52 to R57, R60, R62), by the tests of R53 in their order. An edge that the
divider leaves out, or the end of a gated pulse, is skipped; the end of a suppressed pulse is suppressed; a gate not met
counts as gated off; a HELD channel as suppressed; otherwise the edge is applied, INACTIVE whatever its change under STOP.
Other channels, and all else, stay as they are. A mark and a pulse in progress are known by entry id and occurrence
(R57; entry 46). -/
def State.edgeTaken (s : State) (e : TEdge) (t : State) : Prop :=
  let c := s.channels.get e.channel
  let n := s.timeline.tallies.get e.channel
  let id : PulseId := ⟨e.entry, e.occurrence⟩
  let divided := ∃ v, e.every = some v ∧ s.seq.cycle.toNat % v.divider ≠ v.remainder
  let gateMet := ∀ g, e.gate = some g → (s.filters.inputs.get g.input).level = g.level
  let mark := s.timeline.marks.lookup id
  let passes := (e.role ≠ .pulseEnd ∧ gateMet) ∨ (e.role = .pulseEnd ∧ mark = none)
  let result (c' : Channel) (n' : ChannelTally) (p' : Option PulseId) (marks' : List (PulseId × Mark)) : Prop :=
    t =
      { s with
        channels := s.channels.set e.channel c'
        timeline :=
          { s.timeline with
            next := s.timeline.next + 1, pulses := s.timeline.pulses.set e.channel p', marks := marks'
            tallies := s.timeline.tallies.set e.channel n' } }
  let pulse := s.timeline.pulses.get e.channel
  let ended := if e.role = .pulseEnd ∧ pulse = some id then none else pulse
  let marked (m : Mark) := if e.role = .pulseStart then (id, m) :: s.timeline.marks else s.timeline.marks
  ((divided ∨ e.role = .pulseEnd ∧ mark = some .gated) → result c n pulse s.timeline.marks) ∧
  (¬ divided → e.role = .pulseEnd → mark = some .suppressed →
    result c { n with suppressed := bump n.suppressed } ended s.timeline.marks) ∧
  (¬ divided → e.role ≠ .pulseEnd → ¬ gateMet →
    result c { n with gatedOff := bump n.gatedOff } pulse (marked .gated)) ∧
  (¬ divided → passes → c.hold = .held →
    result c { n with suppressed := bump n.suppressed } ended (marked .suppressed)) ∧
  (¬ divided → passes → c.hold = .free →
    result
      { c with
        level :=
          if s.filters.stop.level = .low then .inactive
          else
            match e.change with
            | .toActive => .active
            | .toInactive => .inactive
            | .flip => if c.level = .active then .inactive else .active }
      { n with applied := bump n.applied } (if e.role = .pulseStart then some id else ended) s.timeline.marks)

/-- Some edges have been taken in turn, each from what the one before left (R52). -/
def EdgesTaken : List TEdge → State → State → Prop
  | [], s, t => t = s
  | e :: rest, s, t => ∃ u, s.edgeTaken e u ∧ EdgesTaken rest u t

/-! ## Halts and cycle starts -/

/-- What a swap's record makes of a channel (R63): with sense and use unchanged it stays as it is; HELD, it takes the sense
and the use alone; FREE, it is INACTIVE besides, with the drive of its use. -/
def Channel.tookBlock (c : Channel) (r : ChannelCfg) (c' : Channel) : Prop :=
  (c.sense = r.sense → c.use = r.use → c' = c) ∧
  (c.sense ≠ r.sense ∨ c.use ≠ r.use → c.hold = .held → c' = { c with sense := r.sense, use := r.use }) ∧
  (c.sense ≠ r.sense ∨ c.use ≠ r.use → c.hold = .free →
    c' =
      { c with
        sense := r.sense, use := r.use, level := .inactive, drive := if r.use = .used then .driven else .highZ })

/-- A channel before and after a point at which a pending commit goes in (R47, R48, R63). -/
def PlanBuffers.handsBlock (p : PlanBuffers) (i : Fin 8) (c c' : Channel) : Prop :=
  if p.commitPending = true then c.tookBlock (p.staged.channels.get i) c' else c' = c

/-- What the Plan Buffers hold after a point at which a pending commit goes in (R47, R48). -/
def PlanBuffers.handedOver (p p' : PlanBuffers) (cycle : Option W32) : Prop :=
  if p.commitPending = true then
    p' = { p with active := p.staged, commitPending := false, outcome := .applied cycle }
  else p' = p

/-- What a halt leaves of the sequencer: its record, phase 0, no wait, no finish flag, no remaining cycles (R16, R17). -/
def Sequencer.haltedAs (q q' : Sequencer) (cause : HaltCause) (phase : Nat) (subject : Option Nat) : Prop :=
  q' =
    { mode := .halted, phase := 0, cycle := q.cycle, remaining := none, finish := false,
      halt := some ⟨cause, q.cycle, phase, subject⟩, wait := none, endDue := false }

/-- From `s`, the sequencer has entered HALTED in `t` (R16): pulses ended and counted as truncated, FREE channels INACTIVE
and HELD ones as they were, windows abandoned and counted; then a pending commit applied, with its channel block, its
windows and its timeline (R48, R51, R63, R92), and COMMITTED raised; then HALTED; inputs, captures, store and start-up
untouched. -/
def HaltedFrom (s t : State) (cause : HaltCause) (phase : Nat) (subject : Option Nat) : Prop :=
  s.seq.haltedAs t.seq cause phase subject ∧
  (∀ i, t.timeline.pulses.get i = none) ∧
  (∀ i, t.timeline.tallies.get i =
    (if (s.timeline.pulses.get i).isSome = true then
      { s.timeline.tallies.get i with truncated := bump (s.timeline.tallies.get i).truncated }
    else s.timeline.tallies.get i)) ∧
  (∀ i, s.plans.handsBlock i
    (if (s.channels.get i).hold = .free then { s.channels.get i with level := .inactive } else s.channels.get i)
    (t.channels.get i)) ∧
  t.monitor.inProgress = false ∧ t.monitor.tallies = s.monitor.abandon.tallies ∧
  (s.plans.commitPending = false →
    t.monitor.table = s.monitor.abandon.table ∧ t.timeline.edges = s.timeline.edges ∧
      t.timeline.next = s.timeline.next ∧ t.timeline.marks = s.timeline.marks) ∧
  (s.plans.commitPending = true →
    t.monitor.table = s.plans.staged.windows.map (fun w => ⟨w, .pending, none⟩) ∧
      t.timeline.edges = s.plans.stagedTimeline ∧ t.timeline.next = 0 ∧ t.timeline.marks = []) ∧
  s.plans.handedOver t.plans none ∧
  t.notices.like
    (Notices.raise (if s.plans.commitPending = true then s.notices.raise (.report (.committed none)) else s.notices)
      (.report (.halted ⟨cause, s.seq.cycle, phase, subject⟩))) ∧
  t.filters = s.filters ∧ t.captures = s.captures ∧ t.media = s.media ∧ t.store = s.store ∧ t.startup = s.startup

/-- The sequencer as a RUN sets it before its first cycle (R12, steps 1 to 3). -/
def Sequencer.ranFor (q : Sequencer) (count : Nat) : Sequencer :=
  { q with
    halt := none, finish := false, cycle := if q.mode = .idle then 0 else q.cycle,
    remaining := if count = 0 then none else some count }

/-- What a cycle start makes of the sequencer (R5, stages 1 to 5). -/
def Sequencer.startedAs (q q' : Sequencer) : Prop :=
  q' =
    { mode := .cycling, phase := 0, cycle := q.cycle + 1, remaining := q.remaining.map fun n => n - 1,
      finish := q.finish, halt := q.halt, wait := none, endDue := false }

/-- From `s`, a cycle has started in `t` (R5): the number raised, a pending commit swapped in with its channel block (R63),
every window PENDING or OPEN at 0; with the skip marks cleared and the walk at position 0 (R51, R52), every edge at phase 0
taken in turn, by the tests of R53 against what the swap left, and none other, so that a channel without such an edge
stays as it was unless the swap changes it; COMMITTED raised for a swap and nothing else; filters, captures, store and
start-up untouched. -/
def StartedFrom (s t : State) : Prop :=
  s.seq.startedAs t.seq ∧ s.plans.handedOver t.plans (some (s.seq.cycle + 1)) ∧ t.monitor.inProgress = true ∧
  t.monitor.tallies = s.monitor.tallies ∧
  (∀ w ∈ t.monitor.table, w.hit = none ∧ w.state = if w.window.openAt = 0 then .opened else .pending) ∧
  t.monitor.table.map Watch.window =
    (if s.plans.commitPending = true then s.plans.staged.windows else s.monitor.table.map Watch.window) ∧
  t.timeline.edges = (if s.plans.commitPending = true then s.plans.stagedTimeline else s.timeline.edges) ∧
  t.timeline.next = (t.timeline.edges.takeWhile fun e => decide (e.phase = 0)).length ∧
  (∃ (block : Row 8 Channel) (u : State),
    (∀ i, s.plans.handsBlock i (s.channels.get i) (block.get i)) ∧
    EdgesTaken (t.timeline.edges.takeWhile fun e => decide (e.phase = 0))
      { s with
        seq := t.seq, channels := block
        timeline := { s.timeline with edges := t.timeline.edges, next := 0, marks := [] } } u ∧
    t.channels = u.channels ∧ t.timeline = u.timeline) ∧
  (s.plans.commitPending = false → ∀ i, (∀ e ∈ s.timeline.edges, e.phase = 0 → e.channel ≠ i) →
    t.channels.get i = s.channels.get i ∧ t.timeline.pulses.get i = s.timeline.pulses.get i ∧
      t.timeline.tallies.get i = s.timeline.tallies.get i) ∧
  t.notices.like
    (if s.plans.commitPending = true then s.notices.raise (.report (.committed (some (s.seq.cycle + 1))))
      else s.notices) ∧
  t.filters = s.filters ∧ t.captures = s.captures ∧ t.media = s.media ∧ t.store = s.store ∧ t.startup = s.startup

/-! ## Input edges -/

/-- From `s`, the cycle in progress has been cut, before what follows the cut (R10, stages 1 to 3): pulses ended and counted
as truncated, FREE channels with a pulse INACTIVE (R58), windows abandoned and counted (R97), CYCLE_CUT raised. -/
def State.cutFrom (s : State) : State :=
  { s with
    channels :=
      s.channels.mapIdx fun i c =>
        if (s.timeline.pulses.get i).isSome = true ∧ c.hold = .free then { c with level := .inactive } else c
    timeline :=
      { s.timeline with
        pulses := Row.fill 8 none
        tallies :=
          s.timeline.tallies.mapIdx fun i n =>
            if (s.timeline.pulses.get i).isSome = true then { n with truncated := bump n.truncated } else n }
    monitor := s.monitor.abandon
    notices := s.notices.raise (.merging .cycleCut s.seq.cycle) }

/-- `t` shows what the Cycle Controller and the Window Monitor made of an edge of an input, `u`; the Capture Queue's notice
of a record may stand behind theirs (R77, R83, R85). -/
def State.tookFrom (t u : State) (i : Fin 4) : Prop :=
  t.seq = u.seq ∧ t.plans = u.plans ∧ t.timeline = u.timeline ∧ t.channels = u.channels ∧ t.monitor = u.monitor ∧
  (t.notices.like u.notices ∨
    ∃ cycle, t.notices.like (u.notices.raise (.merging .captureLevel cycle)) ∨
      t.notices.like (u.notices.raise (.merging (.captureLoss i) cycle)))

/-- The Capture Queue's part of an edge (R78, R82 to R85): with room the record is stored with the next sequence and the
losses before it, and an armed watermark that its level reaches raises CAPTURE_LEVEL; in a full queue it is dropped and
counted, and CAPTURE_LOSS raised. `cap` and `told` are the queue and the notices before. -/
def State.recorded (t : State) (cap : Captures) (told : Notices) (r : CaptureRecord) : Prop :=
  let i := r.input
  (cap.records.length < 128 →
    t.captures =
        { cap with
          records :=
            cap.records ++
              [{ r with seq := cap.nextSeq, loss := if cap.loss.get i = 0 then none else some (cap.loss.get i) }]
          nextSeq := cap.nextSeq + 1, loss := cap.loss.set i 0
          armed := cap.armed && decide (cap.records.length + 1 ≠ cap.watermark)
          tallies := cap.tallies.set i { cap.tallies.get i with stored := bump (cap.tallies.get i).stored } } ∧
      t.notices.like
        (if cap.armed = true ∧ cap.records.length + 1 = cap.watermark then
          told.raise (.merging .captureLevel r.cycle)
        else told)) ∧
  (128 ≤ cap.records.length →
    t.captures =
        { cap with
          loss := cap.loss.set i (min 65535 (cap.loss.get i + 1))
          tallies := cap.tallies.set i { cap.tallies.get i with dropped := bump (cap.tallies.get i).dropped } } ∧
      t.notices.like (told.raise (.merging (.captureLoss i) r.cycle)))

/-- A plan's capture selection of an input names a direction (R78). -/
def Plan.captures (p : Plan) (i : Fin 4) (d : Slope) : Prop :=
  (p.inputs.get i).capture = .both ∨ ((p.inputs.get i).capture = .rise ∧ d = .rise) ∨
    ((p.inputs.get i).capture = .fall ∧ d = .fall)

/-! ## The commit checks and the expansion (R40 to R45) -/

/-- Occurrence `k` of an entry lies at a phase (R41). -/
def Entry.occursAt (e : Entry) (k phase : Nat) : Prop :=
  match e.rep with
  | none => k = 0 ∧ phase = e.offset
  | some r => k < r.count ∧ phase = e.offset + k * r.spacing

/-- Occurrence `k` of an entry has an edge at a phase (R42): its one edge, or its start and its end. -/
def Entry.edgeAt (e : Entry) (k phase : Nat) : Prop :=
  ∃ start, e.occursAt k start ∧ (phase = start ∨ ∃ w, e.action = .pulse w ∧ phase = start + w)

/-- A phase lies from the start to the end of the pulse of occurrence `k` (R42). -/
def Entry.pulseHas (e : Entry) (k phase : Nat) : Prop :=
  ∃ start w, e.occursAt k start ∧ e.action = .pulse w ∧ start ≤ phase ∧ phase ≤ start + w

/-- Occurrence `k` of one entry and `j` of another come too close on their channel (R42). -/
def Entry.clashes (e : Entry) (k : Nat) (f : Entry) (j : Nat) : Prop :=
  e.channel = f.channel ∧
    ∃ x y, e.edgeAt k x ∧ f.edgeAt j y ∧ (x < y + 2 ∧ y < x + 2 ∨ f.pulseHas j x ∨ e.pulseHas k y)

/-- How many edges an entry counts (R43). -/
def Entry.counts (e : Entry) : Nat :=
  (match e.action with | .pulse _ => 2 | _ => 1) * (match e.rep with | none => 1 | some r => r.count)

/-- An entry of a plan passes a check, given the entries before it in staged order (R41 to R43). -/
def Plan.entryPasses (p : Plan) (before : List Entry) (e : Entry) : Check → Prop
  | .offsetRange => ∀ k x, e.occursAt k x → x < p.cycle.length
  | .pulseEnd => ∀ k x w, e.occursAt k x → e.action = .pulse w → x + w ≤ p.cycle.length - 1
  | .channelUnused => (p.channels.get e.channel).use = .used
  | .edgeSpacing =>
    (∀ k j, j < k → ¬ e.clashes k e j) ∧ ∀ f ∈ before, ∀ k j, ¬ e.clashes k f j
  | .edgeBudget => ((before ++ [e]).map Entry.counts).sum ≤ 256
  | _ => True

/-- A window passes WINDOW_RANGE (R40). -/
def Plan.windowPasses (p : Plan) (w : Window) : Prop := w.openAt < w.closeAt ∧ w.closeAt ≤ p.cycle.length

/-- A plan passes a check (R40). -/
def Plan.passes (p : Plan) : Check → Prop
  | .cycleRange => p.cycle.guard ≤ p.cycle.length
  | .startEdge => ¬ (p.cycle.source = .triggered ∧ p.cycle.startEdge = .none)
  | .windowRange => ∀ w ∈ p.windows, p.windowPasses w
  | check => ∀ before e after, p.entries = before ++ e :: after → p.entryPasses before e check

/-- The subject of a check that a plan fails (R40): none for the cycle block, else the first entry or window that fails. -/
def Plan.blames (p : Plan) (check : Check) (subject : Option Nat) : Prop :=
  match check with
  | .cycleRange => subject = none
  | .startEdge => subject = none
  | .windowRange =>
    ∃ before w after, p.windows = before ++ w :: after ∧ subject = some w.id ∧ ¬ p.windowPasses w ∧
      ∀ x ∈ before, p.windowPasses x
  | check =>
    ∃ before e after, p.entries = before ++ e :: after ∧ subject = some e.id ∧ ¬ p.entryPasses before e check ∧
      ∀ b x a, before = b ++ x :: a → p.entryPasses b x check

/-- An entry gives an edge of the timeline (R45). -/
def Entry.gives (e : Entry) (x : TEdge) : Prop :=
  x.channel = e.channel ∧ x.entry = e.id ∧ x.every = e.every ∧ x.gate = e.gate ∧
  ∃ start, e.occursAt x.occurrence start ∧
    match e.action with
    | .on => x.phase = start ∧ x.change = .toActive ∧ x.role = .single
    | .off => x.phase = start ∧ x.change = .toInactive ∧ x.role = .single
    | .flip => x.phase = start ∧ x.change = .flip ∧ x.role = .single
    | .pulse w =>
      x.phase = start ∧ x.change = .toActive ∧ x.role = .pulseStart ∨
        x.phase = start + w ∧ x.change = .toInactive ∧ x.role = .pulseEnd

/-! ## Parameter bytes (R172) -/

/-- How many bytes a presence byte calls for, given the widths of its fields in order. -/
def presentBytes (presence : Nat) (widths : List Nat) : Nat :=
  ((List.range widths.length).map fun k => if presence.testBit k = true then widths.getD k 0 else 0).sum

/-- Some bytes are what a presence byte and the fields it calls for take, no more and no fewer, with no bit set that
stands for no field (R172). -/
def presenceFits (bytes : List Byte) (widths : List Nat) : Prop :=
  ∃ b rest, bytes = b :: rest ∧ b.toNat < 2 ^ widths.length ∧ rest.length = presentBytes b.toNat widths

/-- The parameter bytes of a request are as many as its fields and its presence byte call for (R172, "Refusals for
length"). -/
def paramsFit (code : Nat) (bytes : List Byte) : Prop :=
  match code with
  | 1 => bytes.length = 0 ∨ bytes.length = 2
  | 4 => presenceFits bytes [1, 3, 3, 1, 1, 2, 1]
  | 5 => 1 ≤ bytes.length ∧ presenceFits (bytes.drop 1) [1, 1]
  | 6 => 1 ≤ bytes.length ∧ presenceFits (bytes.drop 1) [1, 1]
  | 7 => 6 ≤ bytes.length ∧ presenceFits (bytes.drop 6) [2, 3, 2, 2]
  | 9 => bytes.length = 10
  | 26 => ∃ slot n name, bytes = slot :: n :: name ∧ name.length = n.toNat
  | 34 => bytes.length = 6
  | 21 => bytes.length = 3
  | _ =>
    if code ∈ [8, 10, 13, 19, 22, 23, 25, 27, 30, 37, 38] then bytes.length = 1
    else if code ∈ [14, 15, 20, 28] then bytes.length = 2
    else bytes.length = 0

/-! ## Records on the media (R102, R108, R109, R120, R175) -/

/-- A record header with state STARTED, byte by byte (R175). -/
def startedHeader (kind slot writeNumber : Nat) (name body : List Byte) : List Byte :=
  let checked :=
    [BitVec.ofNat 8 kind, BitVec.ofNat 8 slot] ++ be4 writeNumber ++ be2 body.length ++ name ++
      List.replicate (12 - name.length) 0xFF#8 ++ be4 (crc32 body).toNat
  0xFE#8 :: checked ++ be2 (crc16 checked).toNat

/-- The header of a FRESH bank, byte by byte (R175). -/
def freshBytes (count : Nat) : List Byte :=
  [0xFE#8, 0xFF#8, 0xFF#8, 0xFF#8, 0xFF#8] ++ be4 count ++ be2 (crc16 (be4 count)).toNat

/-- The size of a record with such a body: 32 bytes and the body padded to a multiple of 16 (R103). -/
def spaceFor (bodyLength : Nat) : Nat := 32 + (bodyLength + 15) / 16 * 16

/-- Steps that write one record (R108, steps 1 to 4): the header, the body in rows of 64 bytes of which the last may be
shorter, WRITTEN, LIVE; what the header and the LIVE marking bring to the directory. -/
def writesRecord (steps : List MediaStep) (bank : Bank) (offset : Nat) (header body : List Byte) (compacting : Bool)
    (onHeader onLive : List StoreEffect) : Prop :=
  ∃ rows : List (List Byte), rows.flatten = body ∧ (∀ r ∈ rows, 1 ≤ r.length ∧ r.length ≤ 64) ∧
    (∀ r ∈ rows.dropLast, r.length = 64) ∧
    steps =
      ⟨.program bank offset header, compacting, onHeader⟩ ::
          rows.mapIdx (fun k r => ⟨.program bank (offset + 32 + 64 * k) r, compacting, []⟩) ++
        [⟨.program bank offset [0xFC#8], compacting, []⟩, ⟨.program bank offset [0xF8#8], compacting, onLive⟩]

/-- The records in force of a directory: one for each slot that holds a profile, and the boot selection (R103, R105). -/
def Directory.records (d : Directory) : List InForce :=
  d.slots.cells.filterMap (fun e => e.map fun r => ⟨r.writeNumber, r.offset, r.bodyLength⟩) ++
    match d.boot with
    | some b => [⟨b.writeNumber, b.offset, 2⟩]
    | none => []

/-- The records in force in ascending order of write number, equal ones in any order (R109, step 3). -/
def Directory.ordered (d : Directory) (rs : List InForce) : Prop :=
  rs.Perm d.records ∧ rs.Pairwise fun a b => a.writeNumber ≤ b.writeNumber

/-- Where the copy of each of some records begins, packed from byte 32 (R109, step 3). -/
def copyAt (rs : List InForce) (k : Nat) : Nat := 32 + ((rs.take k).map fun r => spaceFor r.bodyLength).sum

/-- A record that the scan's walk reads: where its header stands, and the fields it reads there. -/
structure Walked where
  offset : Nat
  kind : HeaderKind
  writeNumber : Nat
  bodyLength : Nat
deriving DecidableEq, Repr

/-- A record's header stands readable in a bank, of a known kind, with a slot up to 7, and a body that its kind allows and
that the bank has room for (R102, R120, R175). -/
def Media.hasHeader (m : Media) (bank : Bank) (r : Walked) : Prop :=
  r.offset + 32 ≤ 16384 ∧ (∃ b ∈ m.slice bank r.offset 32, b ≠ 0xFF#8) ∧
  (crc16 (m.slice bank (r.offset + 1) 24)).toNat = fromBe (m.slice bank (r.offset + 25) 2) ∧
  (match r.kind with
    | .profile i => m.slice bank (r.offset + 1) 2 = [0x01#8, BitVec.ofNat 8 i.val]
    | .boot => m.slice bank (r.offset + 1) 1 = [0x02#8]) ∧
  r.writeNumber = fromBe (m.slice bank (r.offset + 3) 4) ∧ r.bodyLength = fromBe (m.slice bank (r.offset + 7) 2) ∧
  r.bodyLength ≤ (match r.kind with | .profile _ => 1168 | .boot => 2) ∧ r.offset + spaceFor r.bodyLength ≤ 16384

/-- The scan's walk over a bank from an offset reads these records, packed one behind another, and finds the occupied space
to end at `stop` (R120; entry 20): where a header reads all ones, or no header has room, the free space begins; behind an
unreadable one everything is dead. -/
def Media.walks (m : Media) (bank : Bank) : List Walked → Nat → Nat → Prop
  | [], offset, stop =>
    (16384 < offset + 32 ∨ ∀ b ∈ m.slice bank offset 32, b = 0xFF#8) ∧ stop = offset ∨
      (offset + 32 ≤ 16384 ∧ (∃ b ∈ m.slice bank offset 32, b ≠ 0xFF#8) ∧
        ¬ ∃ r, r.offset = offset ∧ m.hasHeader bank r) ∧ stop = 16384
  | r :: rest, offset, stop =>
    r.offset = offset ∧ m.hasHeader bank r ∧ m.walks bank rest (offset + spaceFor r.bodyLength) stop

/-- The state of a record that the walk reads (R175). -/
def Media.stateOf (m : Media) (bank : Bank) (r : Walked) : RecordState := recordStateOf (m.read (bank.base + r.offset))

/-- A LIVE record whose body CRC passes and which, for a BOOT_SELECT, has a body in range (R120). -/
def Media.isGood (m : Media) (bank : Bank) (r : Walked) : Bool :=
  decide (m.stateOf bank r = .live) &&
    decide ((crc32 (m.slice bank (r.offset + 32) r.bodyLength)).toNat = fromBe (m.slice bank (r.offset + 21) 4)) &&
    decide
      (r.kind = .boot →
        (m.read (bank.base + r.offset + 32) = 0xFF#8 ∨ (m.read (bank.base + r.offset + 32)).toNat < 8) ∧
          (m.read (bank.base + r.offset + 33)).toNat ≤ 1)

/-- Of the good records for one slot, or of the good boot selections, the one with the highest write number; the first of
equals (R121; entry 20). -/
def Media.wins (m : Media) (bank : Bank) (rs : List Walked) (r : Walked) : Bool :=
  m.isGood bank r &&
    rs.all fun x =>
      !(m.isGood bank x && decide (x.kind = r.kind)) ||
        decide (x.writeNumber < r.writeNumber ∨ x.writeNumber = r.writeNumber ∧ r.offset ≤ x.offset)

/-- The directory the scan builds from the records it walked (R105, R121; how a name is read, entry 49). -/
def Directory.builtFrom (d : Directory) (m : Media) (bank : Bank) (rs : List Walked) (stop : Nat) : Prop :=
  d.bank = some bank ∧ d.nextWrite = (rs.map Walked.writeNumber).foldl max 0 + 1 ∧ d.free = 16384 - stop ∧
  d.dead = stop - 32 - ((rs.filter (m.wins bank rs)).map fun r => spaceFor r.bodyLength).sum ∧
  (∀ i r, r ∈ rs → m.wins bank rs r = true → r.kind = .profile i →
    d.slots.get i =
      some
        ⟨r.writeNumber, (m.slice bank (r.offset + 9) 12).takeWhile (fun b => decide (b ≠ 0xFF#8)), r.bodyLength,
          r.offset⟩) ∧
  (∀ i, (∀ r ∈ rs, m.wins bank rs r = true → r.kind ≠ .profile i) → d.slots.get i = none) ∧
  (∀ r sel, r ∈ rs → m.wins bank rs r = true → r.kind = .boot →
    (m.read (bank.base + r.offset + 32) = 0xFF#8 ∧ sel = none ∨
      ∃ i : Fin 8, (m.read (bank.base + r.offset + 32)).toNat = i.val ∧ sel = some i) →
    d.boot = some ⟨r.writeNumber, sel, decide (m.read (bank.base + r.offset + 33) = 1#8), r.offset⟩) ∧
  ((∀ r ∈ rs, m.wins bank rs r = true → r.kind ≠ .boot) → d.boot = none)

/-! ## Invariants -/

/-- The media are in canonical form. -/
def State.mediaOk (s : State) : Prop := s.media.wf = true

/-- The phase reads what R1 gives for the state, lengths are 100 or more (R24, R26), nothing runs before start-up is
COMPLETE (R125), a commit is pending only in a running state (R46, R48), and a halt record stands in HALTED alone
(R16, R12). -/
def State.seqOk (s : State) : Prop :=
  100 ≤ s.plans.active.cycle.length ∧ 100 ≤ s.plans.staged.cycle.length ∧
  (s.startup.stage ≠ .complete → s.seq.mode = .idle) ∧
  (match s.seq.mode with
    | .cycling => s.seq.phase < s.plans.active.cycle.length
    | .waiting => s.seq.phase = s.plans.active.cycle.length
    | _ => s.seq.phase = 0) ∧
  (s.plans.commitPending = true → s.seq.mode.running = true) ∧
  (s.seq.halt.isSome = true ↔ s.seq.mode = .halted)

/-- The active plan has passed the commit checks, the active timeline is its expansion and the window table its windows;
a pending plan has passed too and its timeline is staged (R40, R45, R46, R47, R50). -/
def State.plansOk (s : State) : Prop :=
  s.plans.active.failure = none ∧ s.timeline.edges = s.plans.active.expand ∧
  s.monitor.table.map Watch.window = s.plans.active.windows ∧
  (s.plans.commitPending = true → s.plans.staged.failure = none ∧ s.plans.stagedTimeline = s.plans.staged.expand)

/-- A channel is DRIVEN when it is HELD or USED and HIGH_Z otherwise (R61), and a manual pulse runs on HELD channels
alone (R67). -/
def State.driveOk (s : State) : Prop :=
  ∀ i, ((s.channels.get i).drive = .driven ↔ (s.channels.get i).hold = .held ∨ (s.channels.get i).use = .used) ∧
    ((s.channels.get i).manual ≠ none → (s.channels.get i).hold = .held)

/-- While the STOP line is asserted every channel is INACTIVE, no manual pulse runs, and the sequencer is in IDLE or HALTED
(R21, R62, R71, R72). -/
def State.stopSafe (s : State) : Prop :=
  s.stopAsserted = true →
    s.seq.mode.running = false ∧ ∀ i, (s.channels.get i).level = .inactive ∧ (s.channels.get i).manual = none

/-- The capture queue holds at most 128 records with consecutive sequences up to the next one (R82), a watermark in
range, and is armed only below it (R85). -/
def Captures.ok (c : Captures) : Prop :=
  c.records.length ≤ 128 ∧ 1 ≤ c.watermark ∧ c.watermark ≤ 128 ∧
  (c.armed = true → c.records.length < c.watermark) ∧
  ∀ k (h : k < c.records.length), c.records[k].seq + BitVec.ofNat 16 (c.records.length - k) = c.nextSeq

/-- The merging kind and subject of an entry. -/
def Notice.mergeKind (n : Notice) : Option MergeKind :=
  match n.content with
  | .merging kind _ _ => some kind
  | _ => none

/-- The notice queue holds at most 16 ordinary entries and one NOTICE_LOSS, no two with one number or of one merging
kind and subject, and numbers from 1 to 65,535 (R159, R160). -/
def Notices.ok (q : Notices) : Prop :=
  (q.entries.map Notice.number).Nodup ∧ (∀ n ∈ q.entries, 1 ≤ n.number ∧ n.number ≤ 65535) ∧
  1 ≤ q.next ∧ q.next ≤ 65535 ∧ (q.entries.filter fun n => !n.isLoss).length ≤ 16 ∧
  (q.entries.filter Notice.isLoss).length ≤ 1 ∧ (q.entries.filterMap Notice.mergeKind).Nodup

/-- An entry's fields lie in the ranges of R29. -/
def Entry.inRange (e : Entry) : Prop :=
  1 ≤ e.id ∧ e.id ≤ 255 ∧ e.offset ≤ 16777214 ∧
  (∀ w, e.action = .pulse w → 1 ≤ w ∧ w ≤ 65535) ∧
  (∀ r, e.rep = some r → 2 ≤ r.count ∧ r.count ≤ 64 ∧ 2 ≤ r.spacing ∧ r.spacing ≤ 65535) ∧
  ∀ v, e.every = some v → 2 ≤ v.divider ∧ v.divider ≤ 255 ∧ v.remainder < v.divider

/-- A window's fields lie in the ranges of R32. -/
def Window.inRange (w : Window) : Prop :=
  1 ≤ w.id ∧ w.id ≤ 15 ∧ w.openAt ≤ 16777214 ∧ 1 ≤ w.closeAt ∧ w.closeAt ≤ 16777215

/-- A plan's fields lie in the ranges of R26 to R32, with at most 64 entries and 8 windows, the windows in ascending order of
id (R32). -/
def Plan.inRange (p : Plan) : Prop :=
  100 ≤ p.cycle.length ∧ p.cycle.length ≤ 16777215 ∧ p.cycle.guard ≤ 16777215 ∧ p.cycle.starveLimit ≤ 65535 ∧
  (∀ i, (p.inputs.get i).depth ≤ 15) ∧ p.entries.length ≤ 64 ∧ p.windows.length ≤ 8 ∧
  (∀ e ∈ p.entries, e.inRange) ∧ (∀ w ∈ p.windows, w.inRange) ∧ p.windows.Pairwise fun v w => v.id ≤ w.id

/-- The staged and the active plan lie in the ranges. -/
def State.rangesOk (s : State) : Prop := s.plans.staged.inRange ∧ s.plans.active.inRange

/-- The outbox holds at most two replies (R141), the cache at most four, no two with one tag and none with tag 0
(R151). -/
def State.repliesOk (s : State) : Prop :=
  s.link.outbox.length ≤ 2 ∧ s.session.cache.length ≤ 4 ∧ (s.session.cache.map CacheEntry.tag).Nodup ∧
  ∀ e ∈ s.session.cache, e.tag ≠ 0

/-- An operation is in progress in BUSY and only there, and the store is STARTING until the scan has ended (R104). -/
def State.storeOk (s : State) : Prop :=
  (s.store.status = .busy ↔ ∃ job op, s.store.job = some job ∧ job.kind = .op op) ∧
  (s.store.status = .starting ↔ s.startup.stage ≠ .booting ∧ s.startup.stage ≠ .complete)

end Sys2Proof.Machine
end

