-- ==== Sys2Proof/Certificates/Slice0/Obligations.lean ====
section
/-! DEFINITION. The statements about the UQ84 for the provers. -/

open Sys2Proof Sys2Proof.Machine

/-! ## The queue of commands and the clock -/

/-- With a command at the front of the queue, a step is that command's meaning on the rest (entry 1). -/
def Obligations.StepRunsTheFrontCommand : Prop :=
  ∀ (c : Instr) (rest : List Instr) (s : State), s.pending = c :: rest → step s = exec c { s with pending := rest }

/-- With no command waiting, the part in reset or without power stays as it is; live, it takes the one happening that is
due, one of several by a free choice, or advances the tick when none is (entries 1, 2). One tick (R1, R11, R67): in CYCLING
the phase advances by one; in the other states the phase stays and a running wait timer counts; a manual pulse counts down.
That the phase stays at the length minus one in the tick that is the end of the cycle, which the model's own flag `endDue`
marks, is the model's reading (entry 12), and that the wait timer is held in ticks its choice (entry 11). Running gap, lapse
and resend timers count (R137, R155, R165), and nothing else of the link, the session and the notices changes. -/
def Obligations.IdleStepTakesWhatIsDueOrTicks : Prop :=
  (∀ s : State, s.pending = [] →
      (s.live = false → step s = .next s) ∧
      (s.live = true → s.dueAll = [] → step s = .next s.tick) ∧
      (∀ d, s.live = true → s.dueAll = [d] → step s = s.takeDue d) ∧
      (∀ c, s.live = true → s.dueAll = [.command c] → step s = exec c s) ∧
      (∀ d e rest, s.live = true → s.dueAll = d :: e :: rest →
        ∃ x ∈ s.dueAll, step s = ({ s with choices := s.choices + 1 } : State).takeDue x)) ∧
  (∀ s : State,
      (s.seq.mode = .cycling → s.seq.phase + 1 < s.plans.active.cycle.length →
        s.tick.seq = { s.seq with phase := s.seq.phase + 1 }) ∧
      (s.seq.mode = .cycling → s.plans.active.cycle.length ≤ s.seq.phase + 1 →
        s.tick.seq = { s.seq with endDue := true } ∧ s.tick.cycleEndDue = true) ∧
      (s.seq.mode ≠ .cycling → s.tick.seq = { s.seq with wait := s.seq.wait.map fun n => n + 1 }) ∧
      (∀ i, s.tick.channels.get i =
        { s.channels.get i with manual := (s.channels.get i).manual.map fun n => n - 1 }) ∧
      s.tick.link =
        { s.link with asm := { s.link.asm with gap := s.link.asm.gap.map fun n => n + 1 } } ∧
      s.tick.session = { s.session with lapseTimer := s.session.lapseTimer.map fun n => n + 1 } ∧
      s.tick.notices =
        { s.notices with
          entries :=
            s.notices.entries.map fun n =>
              { n with timer := n.timer.map fun t => { t with elapsed := t.elapsed + 1 } } } ∧
      s.tick.pending = s.pending ∧ s.tick.choices = s.choices ∧ s.tick.plans = s.plans ∧
      s.tick.timeline = s.timeline ∧ s.tick.captures = s.captures ∧
      s.tick.monitor = s.monitor ∧ s.tick.media = s.media ∧ s.tick.store = s.store ∧ s.tick.startup = s.startup)

/-! ## Run control (01 section 1.4) -/

/-- RUN taken in IDLE or HALTED with the STOP line released and work in the active plan (R12): with an INTERNAL plan a
cycle starts at once; with a TRIGGERED plan the sequencer is ARMED and the wait timer starts if the starve limit is
nonzero. No parameter bytes are count 0. -/
def Obligations.RunStartsARun : Prop :=
  ∀ (s : State) (q : Req) (count : Nat), s.ready 1 q →
    (q.params = [] ∧ count = 0 ∨ q.params = be2 count ∧ count ≤ 65535) →
    (s.seq.mode = .idle ∨ s.seq.mode = .halted) → s.stopAsserted = false → s.plans.active.hasWork = true →
    s.plans.commitPending = false →
    ∃ t, exec (.run q) s = .next t ∧ t.replied (replyTo 1 q .ok []) ∧ t.link.waiting = none ∧ LinkKept s t ∧
      t.plans = s.plans ∧ t.filters = s.filters ∧ t.captures = s.captures ∧ t.media = s.media ∧ t.store = s.store ∧
      t.startup = s.startup ∧
      (s.plans.active.cycle.source = .internal → StartedFrom { s with seq := s.seq.ranFor count } t) ∧
      (s.plans.active.cycle.source = .triggered →
        t.agrees
          { s with
            seq :=
              { s.seq.ranFor count with
                mode := .armed, phase := 0, endDue := false,
                wait := if s.plans.active.cycle.starveLimit = 0 then none else some 0 } })

/-- FINISH (R14): in CYCLING it sets the finish flag and nothing else; in ARMED and WAITING the sequencer halts at once with
cause FINISHED at the phase it reads. HALT in a running state (R15): the sequencer halts at once with cause HOST at the
phase it reads. -/
def Obligations.FinishAndHaltEndTheRun : Prop :=
  (∀ (s : State) (q : Req), s.ready 2 q → q.params = [] →
      (s.seq.mode = .cycling →
        Answers (.finish q) s 2 q { s with seq := { s.seq with finish := true } } .ok []) ∧
      (s.seq.mode = .armed ∨ s.seq.mode = .waiting →
        ∃ t, exec (.finish q) s = .next t ∧ t.replied (replyTo 2 q .ok []) ∧ t.link.waiting = none ∧ LinkKept s t ∧
          HaltedFrom s t .finished s.seq.phase none)) ∧
  (∀ (s : State) (q : Req), s.ready 3 q → q.params = [] → s.seq.mode.running = true →
      ∃ t, exec (.halt q) s = .next t ∧ t.replied (replyTo 3 q .ok []) ∧ t.link.waiting = none ∧ LinkKept s t ∧
        HaltedFrom s t .host s.seq.phase none)

/-- The refusals of RUN, with or without its count, in their order, and of FINISH and HALT, change nothing but the reply (R12,
R14, R15). -/
def Obligations.RunControlRefusals : Prop :=
  ∀ (s : State) (q : Req),
    (s.ready 1 q → (q.params = [] ∨ ∃ count, count ≤ 65535 ∧ q.params = be2 count) →
      (s.seq.mode.running = true → Answers (.run q) s 1 q s .wrongState []) ∧
      (s.seq.mode.running = false → s.stopAsserted = true → Answers (.run q) s 1 q s .inhibited []) ∧
      (s.seq.mode.running = false → s.stopAsserted = false → s.plans.active.hasWork = false →
        Answers (.run q) s 1 q s .planEmpty [])) ∧
    (s.ready 2 q → q.params = [] → s.seq.mode.running = false → Answers (.finish q) s 2 q s .wrongState []) ∧
    (s.ready 3 q → q.params = [] → s.seq.mode.running = false → Answers (.halt q) s 3 q s .wrongState [])

/-! ## Edits of the staged plan (02 section 2.2) -/

/-- PLAN_SET_CYCLE (R26): present fields in range replace the staged values, absent ones keep theirs, and nothing else
changes; a field out of range is BAD_VALUE with the lowest such index. -/
def Obligations.PlanSetCycleReplacesPresentFields : Prop :=
  ∀ (s : State) (q : Req) (c : SetCycle), s.ready 4 q → readSetCycle q.params = some c →
    s.plans.commitPending = false →
    let ok (k : Nat) : Prop :=
      (k = 1 → ∀ n, c.source = some n → n ≤ 1) ∧ (k = 2 → ∀ n, c.length = some n → 100 ≤ n ∧ n ≤ 16777215) ∧
        (k = 3 → ∀ n, c.guard = some n → n ≤ 16777215) ∧ (k = 4 → ∀ n, c.startInput = some n → n ≤ 3) ∧
        (k = 5 → ∀ n, c.startEdge = some n → n ≤ 1) ∧ (k = 6 → ∀ n, c.starveLimit = some n → n ≤ 65535) ∧
        (k = 7 → ∀ n, c.starvePolicy = some n → n ≤ 1)
    ((∀ k, ok k) →
      ∃ b : CycleBlock,
        Answers (.planSetCycle q) s 4 q
          { s with plans := { s.plans with staged := { s.plans.staged with cycle := b } } } .ok [] ∧
        b.length = c.length.getD s.plans.staged.cycle.length ∧ b.guard = c.guard.getD s.plans.staged.cycle.guard ∧
        b.starveLimit = c.starveLimit.getD s.plans.staged.cycle.starveLimit ∧
        b.source.code = c.source.getD s.plans.staged.cycle.source.code ∧
        b.startInput.val = c.startInput.getD s.plans.staged.cycle.startInput.val ∧
        b.startEdge.code = c.startEdge.getD s.plans.staged.cycle.startEdge.code ∧
        b.starvePolicy.code = c.starvePolicy.getD s.plans.staged.cycle.starvePolicy.code) ∧
    (∀ k, ¬ ok k → (∀ j, j < k → ok j) → Answers (.planSetCycle q) s 4 q s (.badValue k) [])

/-- PLAN_SET_CHANNEL and PLAN_SET_INPUT (R25, R27, R28): present fields in range replace one record's staged values, absent
ones keep theirs, and nothing else changes; a field out of range is BAD_VALUE with the lowest such index. -/
def Obligations.PlanSetChannelAndInputReplaceOneRecord : Prop :=
  ∀ (s : State) (q : Req) (c : SetPair), readSetPair q.params = some c → s.plans.commitPending = false →
    let upTo (top : Nat) (field : Option Nat) : Prop := ∀ n, field = some n → n ≤ top
    (∀ i : Fin 8, s.ready 5 q → upTo 1 c.first → upTo 1 c.second → c.number = i.val →
      ∃ r : ChannelCfg,
        Answers (.planSetChannel q) s 5 q
          { s with
            plans :=
              { s.plans with staged := { s.plans.staged with channels := s.plans.staged.channels.set i r } } } .ok [] ∧
        r.sense.code = c.first.getD (s.plans.staged.channels.get i).sense.code ∧
        (r.use = .used ↔
          c.second = some 0 ∨ c.second = none ∧ (s.plans.staged.channels.get i).use = .used)) ∧
    (s.ready 5 q →
      (7 < c.number → Answers (.planSetChannel q) s 5 q s (.badValue 1) []) ∧
      (c.number ≤ 7 → ¬ upTo 1 c.first → Answers (.planSetChannel q) s 5 q s (.badValue 2) []) ∧
      (c.number ≤ 7 → upTo 1 c.first → ¬ upTo 1 c.second → Answers (.planSetChannel q) s 5 q s (.badValue 3) [])) ∧
    (s.ready 6 q →
      (3 < c.number → Answers (.planSetInput q) s 6 q s (.badValue 1) []) ∧
      (c.number ≤ 3 → ¬ upTo 15 c.first → Answers (.planSetInput q) s 6 q s (.badValue 2) []) ∧
      (c.number ≤ 3 → upTo 15 c.first → ¬ upTo 3 c.second → Answers (.planSetInput q) s 6 q s (.badValue 3) [])) ∧
    (∀ i : Fin 4, s.ready 6 q → upTo 15 c.first → upTo 3 c.second → c.number = i.val →
      ∃ r : InputCfg,
        Answers (.planSetInput q) s 6 q
          { s with
            plans := { s.plans with staged := { s.plans.staged with inputs := s.plans.staged.inputs.set i r } } }
          .ok [] ∧
        r.depth = c.first.getD (s.plans.staged.inputs.get i).depth ∧
        r.capture.code = c.second.getD (s.plans.staged.inputs.get i).capture.code)

/-- ENTRY_ADD (R29, R30) and WINDOW_ADD (R32): a field out of range is BAD_VALUE with the lowest such index, DUPLICATE_ID
comes before TABLE_FULL; otherwise the entry goes behind the entries whose offsets are at most its own, the window in
ascending order of id, and nothing else changes. In a loaded entries table whose rows are not in order of offset, for which R30 gives no
place, the entry goes before the first one with a greater offset: the model's choice (entry 45). -/
def Obligations.EntryAndWindowAddInsertInOrder : Prop :=
  (∀ (s : State) (q : Req) (raw : RawEntry), s.ready 7 q → readEntryAdd q.params = some raw →
      s.plans.commitPending = false →
      (∀ e, raw.check = .ok e →
        ((∃ x ∈ s.plans.staged.entries, x.id = e.id) → Answers (.entryAdd q) s 7 q s .duplicateId []) ∧
        ((∀ x ∈ s.plans.staged.entries, x.id ≠ e.id) → 64 ≤ s.plans.staged.entries.length →
          Answers (.entryAdd q) s 7 q s .tableFull []) ∧
        ((∀ x ∈ s.plans.staged.entries, x.id ≠ e.id) → s.plans.staged.entries.length < 64 →
          Answers (.entryAdd q) s 7 q
            { s with
              plans :=
                { s.plans with
                  staged :=
                    { s.plans.staged with
                      entries :=
                        (s.plans.staged.entries.takeWhile fun x => decide (x.offset ≤ e.offset)) ++
                          e :: s.plans.staged.entries.dropWhile fun x => decide (x.offset ≤ e.offset) } } } .ok [])) ∧
      (∀ k, raw.check = .error k → Answers (.entryAdd q) s 7 q s (.badValue k) [])) ∧
  (∀ (s : State) (q : Req) (raw : RawWindow), s.ready 9 q → readWindowAdd q.params = some raw →
      s.plans.commitPending = false →
      (∀ w, raw.check = .ok w →
        ((∃ x ∈ s.plans.staged.windows, x.id = w.id) → Answers (.windowAdd q) s 9 q s .duplicateId []) ∧
        ((∀ x ∈ s.plans.staged.windows, x.id ≠ w.id) → 8 ≤ s.plans.staged.windows.length →
          Answers (.windowAdd q) s 9 q s .tableFull []) ∧
        ((∀ x ∈ s.plans.staged.windows, x.id ≠ w.id) → s.plans.staged.windows.length < 8 →
          Answers (.windowAdd q) s 9 q
            { s with
              plans :=
                { s.plans with
                  staged :=
                    { s.plans.staged with
                      windows :=
                        (s.plans.staged.windows.takeWhile fun x => decide (x.id ≤ w.id)) ++
                          w :: s.plans.staged.windows.dropWhile fun x => decide (x.id ≤ w.id) } } } .ok [])) ∧
      (∀ k, raw.check = .error k → Answers (.windowAdd q) s 9 q s (.badValue k) []))

/-- ENTRY_REMOVE and WINDOW_REMOVE (R31, R33): the staged row with the id is removed, the others keep their order, and nothing
else changes; with no such row it is NOT_FOUND; an id out of range is BAD_VALUE with index 1. In a loaded table that repeats
the id, on which R31 and R33 are silent, every row with it is removed: the model's choice (entry 44). -/
def Obligations.EntryAndWindowRemoveRemoveTheRow : Prop :=
  (∀ (s : State) (q : Req) (id : Byte), s.ready 8 q → q.params = [id] → s.plans.commitPending = false →
      (id = 0 → Answers (.entryRemove q) s 8 q s (.badValue 1) []) ∧
      (id ≠ 0 → (∀ x ∈ s.plans.staged.entries, x.id ≠ id.toNat) → Answers (.entryRemove q) s 8 q s .notFound []) ∧
      (id ≠ 0 → (∃ x ∈ s.plans.staged.entries, x.id = id.toNat) →
        Answers (.entryRemove q) s 8 q
          { s with
            plans :=
              { s.plans with
                staged :=
                  { s.plans.staged with
                    entries := s.plans.staged.entries.filter fun x => decide (x.id ≠ id.toNat) } } } .ok [])) ∧
  (∀ (s : State) (q : Req) (id : Byte), s.ready 10 q → q.params = [id] → s.plans.commitPending = false →
      (id = 0 ∨ 15 < id.toNat → Answers (.windowRemove q) s 10 q s (.badValue 1) []) ∧
      (id ≠ 0 → id.toNat ≤ 15 → (∀ x ∈ s.plans.staged.windows, x.id ≠ id.toNat) →
        Answers (.windowRemove q) s 10 q s .notFound []) ∧
      (id ≠ 0 → id.toNat ≤ 15 → (∃ x ∈ s.plans.staged.windows, x.id = id.toNat) →
        Answers (.windowRemove q) s 10 q
          { s with
            plans :=
              { s.plans with
                staged :=
                  { s.plans.staged with
                    windows := s.plans.staged.windows.filter fun x => decide (x.id ≠ id.toNat) } } } .ok []))

/-- PLAN_CLEAR (R34) makes the staged plan the empty plan, PLAN_COPY_ACTIVE (R35) the active plan's copy, and nothing else
changes; each is COMMIT_PENDING while a commit is pending. -/
def Obligations.PlanClearAndCopyActiveReplaceTheStagedPlan : Prop :=
  (∀ (s : State) (q : Req), s.ready 11 q → q.params = [] →
      (s.plans.commitPending = true → Answers (.planClear q) s 11 q s .commitPending []) ∧
      (s.plans.commitPending = false →
        Answers (.planClear q) s 11 q { s with plans := { s.plans with staged := Plan.empty } } .ok [])) ∧
  (∀ (s : State) (q : Req), s.ready 12 q → q.params = [] →
      (s.plans.commitPending = true → Answers (.planCopyActive q) s 12 q s .commitPending []) ∧
      (s.plans.commitPending = false →
        Answers (.planCopyActive q) s 12 q { s with plans := { s.plans with staged := s.plans.active } } .ok []))

/-- While a commit is pending every edit whose parameter bytes form its fields is refused COMMIT_PENDING, before any range
check (R25). -/
def Obligations.EditsWaitForAPendingCommit : Prop :=
  ∀ (s : State) (q : Req), s.plans.commitPending = true →
    (∀ c, s.ready 4 q → readSetCycle q.params = some c → Answers (.planSetCycle q) s 4 q s .commitPending []) ∧
    (∀ c, s.ready 5 q → readSetPair q.params = some c → Answers (.planSetChannel q) s 5 q s .commitPending []) ∧
    (∀ c, s.ready 6 q → readSetPair q.params = some c → Answers (.planSetInput q) s 6 q s .commitPending []) ∧
    (∀ c, s.ready 7 q → readEntryAdd q.params = some c → Answers (.entryAdd q) s 7 q s .commitPending []) ∧
    (∀ c, s.ready 8 q → readOne q.params = some c → Answers (.entryRemove q) s 8 q s .commitPending []) ∧
    (∀ c, s.ready 9 q → readWindowAdd q.params = some c → Answers (.windowAdd q) s 9 q s .commitPending []) ∧
    (∀ c, s.ready 10 q → readOne q.params = some c → Answers (.windowRemove q) s 10 q s .commitPending [])

/-! ## Reading, checking and committing plans (02 sections 2.3 to 2.6) -/

/-- PLAN_READ (R37) returns the fixed parts of the plan it names, with the active timeline's edge count for the active plan;
ENTRY_LIST and WINDOW_LIST (R38) return the row count and up to 8 rows from the start position. None changes anything; a
field out of range is BAD_VALUE with its index. The windows come in the table's order, which is kept the order of id
(R32, R38). -/
def Obligations.PlanReadAndListsReturnThePlan : Prop :=
  (∀ (s : State) (q : Req) (which : Byte), s.ready 13 q → q.params = [which] →
      (which = 0 → Answers (.planRead q) s 13 q s .ok s.plans.staged.fixedBytes) ∧
      (which = 1 →
        Answers (.planRead q) s 13 q s .ok (s.plans.active.fixedBytes ++ be2 s.timeline.edges.length)) ∧
      (1 < which.toNat → Answers (.planRead q) s 13 q s (.badValue 1) [])) ∧
  (∀ (s : State) (q : Req) (which start : Byte), q.params = [which, start] → 1 < which.toNat →
      (s.ready 14 q → Answers (.entryList q) s 14 q s (.badValue 1) []) ∧
      (s.ready 15 q → Answers (.windowList q) s 15 q s (.badValue 1) [])) ∧
  (∀ (s : State) (q : Req) (which start : Byte) (p : Plan), q.params = [which, start] →
      (which = 0 ∧ p = s.plans.staged ∨ which = 1 ∧ p = s.plans.active) →
      (s.ready 14 q →
        (start.toNat < 64 →
          Answers (.entryList q) s 14 q s .ok
            (be1 p.entries.length ++ be1 (min 8 (p.entries.length - start.toNat)) ++
              (((p.entries.drop start.toNat).take 8).map Entry.bytes).flatten)) ∧
        (64 ≤ start.toNat → Answers (.entryList q) s 14 q s (.badValue 2) [])) ∧
      (s.ready 15 q →
        (start.toNat < 8 →
          Answers (.windowList q) s 15 q s .ok
            (be1 p.windows.length ++ be1 (min 8 (p.windows.length - start.toNat)) ++
              (((p.windows.drop start.toNat).take 8).map Window.bytes).flatten)) ∧
        (8 ≤ start.toNat → Answers (.windowList q) s 15 q s (.badValue 2) [])))

/-- PLAN_CHECK (R44) changes nothing and reports the edge count of the expansion, or the first failing check with its
subject. A plan has no failure exactly when it passes all eight checks; the failure reported is the first check in their
order that it does not pass, with the first entry in staged order or window in the table's order that fails it (R40 to R43).
The table's order is kept the order of id that R40 names (R32).
The expansion holds exactly the edges that each occurrence of each entry gives, as many as the entries count, by phase and
then by channel; in a plan in range that passes, no two have both alike (R45). -/
def Obligations.PlanCheckReports : Prop :=
  (∀ (s : State) (q : Req), s.ready 16 q → q.params = [] →
    (s.plans.staged.failure = none →
      Answers (.planCheck q) s 16 q s .ok (be2 s.plans.staged.expand.length)) ∧
    (∀ check subject, s.plans.staged.failure = some (check, subject) →
      Answers (.planCheck q) s 16 q s (.planInvalid check subject) [])) ∧
  (∀ p : Plan,
    (p.failure = none ↔ ∀ check, p.passes check) ∧
    (∀ check subject,
      p.failure = some (check, subject) ↔
        ¬ p.passes check ∧ (∀ c, c.code < check.code → p.passes c) ∧ p.blames check subject) ∧
    (∀ x, x ∈ p.expand ↔ ∃ e ∈ p.entries, e.gives x) ∧
    p.expand.length = (p.entries.map Entry.counts).sum ∧
    p.expand.Pairwise (fun x y => x.phase < y.phase ∨ x.phase = y.phase ∧ x.channel ≤ y.channel) ∧
    (p.inRange → p.failure = none →
      p.expand.Pairwise fun x y => x.phase < y.phase ∨ x.phase = y.phase ∧ x.channel < y.channel))

/-- PLAN_COMMIT (R46, R47, R51, R63): COMMIT_PENDING while one is pending; a failed check leaves the last outcome none; in a
running state the commit becomes pending with the staged timeline expanded. In IDLE or HALTED the swap is made at once: the
plans, the timeline and the window table are the new ones, a FREE channel whose record changes takes it at INACTIVE, a HELD
one takes sense and use, and nothing else changes. That the reply carries the applied flag as yes, before the edge count, is
the model's reading of R46 and R172 (entry 29). -/
def Obligations.PlanCommitIsRefusedWaitsOrSwaps : Prop :=
  (∀ (s : State) (q : Req), s.ready 17 q → q.params = [] →
      (s.plans.commitPending = true → Answers (.planCommit q) s 17 q s .commitPending []) ∧
      (∀ check subject, s.plans.commitPending = false → s.plans.staged.failure = some (check, subject) →
        Answers (.planCommit q) s 17 q { s with plans := { s.plans with outcome := .none } }
          (.planInvalid check subject) []) ∧
      (s.plans.commitPending = false → s.plans.staged.failure = none → s.seq.mode.running = true →
        Answers (.planCommit q) s 17 q
          { s with
            plans :=
              { s.plans with
                stagedTimeline := s.plans.staged.expand, commitPending := true, outcome := .pending } }
          (.pending s.plans.staged.expand.length) [])) ∧
  (∀ (s : State) (q : Req), s.ready 17 q → q.params = [] → s.plans.commitPending = false →
      s.plans.staged.failure = none → s.seq.mode.running = false →
      ∃ chans : Row 8 Channel,
        Answers (.planCommit q) s 17 q
          { s with
            plans :=
              { staged := s.plans.staged, active := s.plans.staged, stagedTimeline := s.plans.staged.expand,
                commitPending := false, outcome := .applied none }
            timeline := { s.timeline with edges := s.plans.staged.expand, next := 0, marks := [] }
            monitor := { s.monitor with table := s.plans.staged.windows.map fun w => ⟨w, .pending, none⟩ }
            channels := chans }
          .ok (be1 1 ++ be2 s.plans.staged.expand.length) ∧
        ∀ i, (s.channels.get i).tookBlock (s.plans.staged.channels.get i) (chans.get i))

/-- PLAN_ABANDON (R49): a pending commit is withdrawn; an applied one is TOO_LATE with its cycle number, if it has one;
with none it is NO_COMMIT. -/
def Obligations.PlanAbandonFollowsTheOutcome : Prop :=
  ∀ (s : State) (q : Req), s.ready 18 q → q.params = [] →
    (s.plans.outcome = .pending →
      Answers (.planAbandon q) s 18 q
        { s with plans := { s.plans with commitPending := false, outcome := .abandoned } } .ok []) ∧
    (∀ cycle, s.plans.outcome = .applied cycle → Answers (.planAbandon q) s 18 q s (.tooLate cycle) []) ∧
    (s.plans.outcome = .none ∨ s.plans.outcome = .abandoned → Answers (.planAbandon q) s 18 q s .noCommit [])

/-! ## Channels under host control (03 section 3.3) -/

/-- CHANNEL_HOLD (R65): refused for a channel out of range and under STOP; a FREE USED channel is HELD as it stands, a FREE
UNUSED one is DRIVEN at INACTIVE, a HELD one stays as it is. CHANNEL_RELEASE (R68): refused only for a channel out of
range; a HELD channel goes INACTIVE and FREE with its manual pulse ended, DRIVEN if USED and HIGH_Z if not; a FREE one stays
as it is. Nothing else changes. -/
def Obligations.ChannelHoldAndReleaseTakeAndFree : Prop :=
  (∀ (s : State) (q : Req) (n : Byte), s.ready 19 q → q.params = [n] →
      (8 ≤ n.toNat → Answers (.channelHold q) s 19 q s (.badValue 1) []) ∧
      (n.toNat < 8 → s.stopAsserted = true → Answers (.channelHold q) s 19 q s .inhibited []) ∧
      (∀ i : Fin 8, n.toNat = i.val → s.stopAsserted = false →
        ∃ c : Channel, Answers (.channelHold q) s 19 q { s with channels := s.channels.set i c } .ok [] ∧
          ((s.channels.get i).hold = .held → c = s.channels.get i) ∧
          ((s.channels.get i).hold = .free → (s.channels.get i).use = .used →
            c = { s.channels.get i with hold := .held }) ∧
          ((s.channels.get i).hold = .free → (s.channels.get i).use = .unused →
            c = { s.channels.get i with hold := .held, drive := .driven, level := .inactive }))) ∧
  (∀ (s : State) (q : Req) (n : Byte), s.ready 22 q → q.params = [n] →
      (8 ≤ n.toNat → Answers (.channelRelease q) s 22 q s (.badValue 1) []) ∧
      (∀ i : Fin 8, n.toNat = i.val →
        ∃ c : Channel, Answers (.channelRelease q) s 22 q { s with channels := s.channels.set i c } .ok [] ∧
          ((s.channels.get i).hold = .free → c = s.channels.get i) ∧
          ((s.channels.get i).hold = .held →
            c =
              { s.channels.get i with
                hold := .free, level := .inactive, manual := none,
                drive := if (s.channels.get i).use = .used then .driven else .highZ })))

/-- CHANNEL_SET and CHANNEL_PULSE (R66, R67): on a HELD channel without a manual pulse and with the STOP line released they
set the level, or start the pulse at ACTIVE, and nothing else changes; otherwise they are refused, a field out of range
first, then INHIBITED, NOT_HELD, CHANNEL_BUSY. -/
def Obligations.ChannelSetAndPulseNeedAHeldIdleChannel : Prop :=
  (∀ (s : State) (q : Req) (n l : Byte), s.ready 20 q → q.params = [n, l] →
      (8 ≤ n.toNat → Answers (.channelSet q) s 20 q s (.badValue 1) []) ∧
      (n.toNat < 8 → 1 < l.toNat → Answers (.channelSet q) s 20 q s (.badValue 2) []) ∧
      (∀ i : Fin 8, n.toNat = i.val → l.toNat ≤ 1 →
        (s.stopAsserted = true → Answers (.channelSet q) s 20 q s .inhibited []) ∧
        (s.stopAsserted = false → (s.channels.get i).hold = .free → Answers (.channelSet q) s 20 q s .notHeld []) ∧
        (s.stopAsserted = false → (s.channels.get i).hold = .held → (s.channels.get i).manual ≠ none →
          Answers (.channelSet q) s 20 q s .channelBusy []) ∧
        (s.stopAsserted = false → (s.channels.get i).hold = .held → (s.channels.get i).manual = none →
          Answers (.channelSet q) s 20 q
            { s with
              channels :=
                s.channels.set i { s.channels.get i with level := if l = 0 then .active else .inactive } } .ok []))) ∧
  (∀ (s : State) (q : Req) (n : Byte) (w : Nat), s.ready 21 q → q.params = n :: be2 w → w ≤ 65535 →
      (8 ≤ n.toNat → Answers (.channelPulse q) s 21 q s (.badValue 1) []) ∧
      (n.toNat < 8 → w = 0 → Answers (.channelPulse q) s 21 q s (.badValue 2) []) ∧
      (∀ i : Fin 8, n.toNat = i.val → 1 ≤ w →
        (s.stopAsserted = true → Answers (.channelPulse q) s 21 q s .inhibited []) ∧
        (s.stopAsserted = false → (s.channels.get i).hold = .free → Answers (.channelPulse q) s 21 q s .notHeld []) ∧
        (s.stopAsserted = false → (s.channels.get i).hold = .held → (s.channels.get i).manual ≠ none →
          Answers (.channelPulse q) s 21 q s .channelBusy []) ∧
        (s.stopAsserted = false → (s.channels.get i).hold = .held → (s.channels.get i).manual = none →
          Answers (.channelPulse q) s 21 q
            { s with
              channels := s.channels.set i { s.channels.get i with level := .active, manual := some w } }
            .ok [])))

/-! ## The capture queue (04 sections 4.4 and 4.5) -/

/-- CAPTURE_READ (R87, R85): a maximum of 1 to 12 removes that many of the oldest records, or all there are, and returns them
with the level left; the watermark arms if that level is below it; another maximum is BAD_VALUE and removes nothing.
CAPTURE_FLUSH (R88): every record is removed, the watermark arms, and the reply carries how many there were. -/
def Obligations.CaptureReadAndFlushRemoveRecords : Prop :=
  (∀ (s : State) (q : Req) (m : Byte), s.ready 23 q → q.params = [m] →
      (1 ≤ m.toNat → m.toNat ≤ 12 →
        Answers (.captureRead q) s 23 q
          { s with
            captures :=
              { s.captures with
                records := s.captures.records.drop m.toNat
                armed := s.captures.armed || decide (s.captures.records.length - m.toNat < s.captures.watermark) } }
          .ok
          (be1 (min m.toNat s.captures.records.length) ++
            ((s.captures.records.take m.toNat).map CaptureRecord.bytes).flatten ++
              be1 (s.captures.records.length - m.toNat))) ∧
      (m = 0 ∨ 12 < m.toNat → Answers (.captureRead q) s 23 q s (.badValue 1) [])) ∧
  (∀ (s : State) (q : Req), s.ready 24 q → q.params = [] →
      Answers (.captureFlush q) s 24 q { s with captures := { s.captures with records := [], armed := true } } .ok
        (be1 s.captures.records.length))

/-- CAPTURE_WATERMARK (R86): the watermark is set; with the level at or above it CAPTURE_LEVEL is raised at once in the
current cycle and it is unarmed, otherwise it is armed and no notice arises. Out of range it is BAD_VALUE. -/
def Obligations.CaptureWatermarkIsEvaluatedAtOnce : Prop :=
  ∀ (s : State) (q : Req) (m : Byte), s.ready 25 q → q.params = [m] →
    (1 ≤ m.toNat → m.toNat ≤ 128 → s.captures.records.length < m.toNat →
      Answers (.captureWatermark q) s 25 q
        { s with captures := { s.captures with watermark := m.toNat, armed := true } } .ok
        (be1 s.captures.records.length)) ∧
    (1 ≤ m.toNat → m.toNat ≤ 128 → m.toNat ≤ s.captures.records.length →
      Answers (.captureWatermark q) s 25 q
        { s with
          captures := { s.captures with watermark := m.toNat, armed := false }
          notices := s.notices.raise (.merging .captureLevel s.seq.cycle) } .ok
        (be1 s.captures.records.length)) ∧
    (m = 0 ∨ 128 < m.toNat → Answers (.captureWatermark q) s 25 q s (.badValue 1) [])

/-! ## The profile store's requests (chapter 6) -/

/-- PROFILE_SAVE (R106, R107, R109, R114): its refusals in their order; then it is ACCEPTED and the store BUSY, with the
steps of a record at the free space where it fits; where it does not, with those of a compaction before it, unless wear
blocks that compaction's first erase, when the operation ends at once as VERIFY_FAILED in READ_ONLY. -/
def Obligations.ProfileSaveIsAccepted : Prop :=
  ∀ (s : State) (q : Req) (n l : Byte) (name : List Byte), s.ready 26 q → q.params = n :: l :: name →
    l.toNat = name.length →
    (8 ≤ n.toNat → Answers (.profileSave q) s 26 q s (.badValue 1) []) ∧
    (n.toNat < 8 → nameOk name = false → Answers (.profileSave q) s 26 q s (.badValue 2) []) ∧
    (∀ slot : Fin 8, n.toNat = slot.val → nameOk name = true →
      (s.store.status = .busy → Answers (.profileSave q) s 26 q s .storeBusy []) ∧
      (s.store.status = .readOnly → Answers (.profileSave q) s 26 q s .storeReadOnly []) ∧
      (∀ bank, s.store.status = .ready → s.store.dir.bank = some bank →
        (32 + (s.plans.active.bytes.length + 15) / 16 * 16 ≤ s.store.dir.free →
          Answers (.profileSave q) s 26 q
            { s with
              store :=
                { s.store with
                  status := .busy
                  job :=
                    some
                      ⟨.op (.save slot), saveSteps s.store.dir bank slot name s.plans.active.bytes, false, false,
                        false, 0⟩ } }
            .accepted []) ∧
        (s.store.dir.free < 32 + (s.plans.active.bytes.length + 15) / 16 * 16 →
          ((s.media.bankState bank.other ≠ some .fresh ∧ 50000 ≤ s.media.takenCount bank.other) →
            Answers (.profileSave q) s 26 q
              { s with
                store := { s.store with status := .readOnly, job := none }
                notices := s.notices.raise (.report (.storeDone (.save slot) .verifyFailed false)) } .accepted []) ∧
          (¬ (s.media.bankState bank.other ≠ some .fresh ∧ 50000 ≤ s.media.takenCount bank.other) →
            Answers (.profileSave q) s 26 q
              { s with
                store :=
                  { s.store with
                    status := .busy
                    job :=
                      some
                        ⟨.op (.save slot),
                          (compactionSteps s.media s.store.dir bank).1 ++
                            saveSteps (s.store.dir.repacked bank.other) bank.other slot name s.plans.active.bytes,
                          false, (compactionSteps s.media s.store.dir bank).2, false, 0⟩ } }
              .accepted []))))

/-- The media steps of the writing operations, in order, and what each brings to the directory once it has verified (R101,
R105, R108, R109, R111, R112, R175). A save and a BOOT_SET write one record at the free space and last mark the record they
replace DEAD. A compaction prepares the other bank unless it is FRESH, marks it OPENING, copies the records in force in
ascending order of write number, packed from byte 32, marks it CURRENT and the old bank RETIRED, and erases that unless wear
blocks it. A format refreshes both banks and makes A CURRENT. That a replaced boot selection adds 48 dead bytes, and is copied
with two body bytes, whatever body length its header stores is the model's choice (entry 41). -/
def Obligations.StoreOperationsWriteInOrder : Prop :=
  (∀ (kind slot wn : Nat) (name body : List Byte), recordHeader kind slot wn name body = startedHeader kind slot wn name body) ∧
  (∀ (d : Directory) (bank : Bank) (slot : Fin 8) (name body : List Byte),
    ∃ steps,
      writesRecord steps bank (16384 - d.free) (startedHeader 1 slot.val d.nextWrite name body) body false
          [.issued (spaceFor body.length)]
          [.profileLive slot ⟨d.nextWrite, name, body.length, 16384 - d.free⟩] ∧
        saveSteps d bank slot name body =
          steps ++
            match d.slots.get slot with
            | some old => [⟨.program bank old.offset [0x7F#8], false, [.madeDead (spaceFor old.bodyLength)]⟩]
            | none => []) ∧
  (∀ (d : Directory) (bank : Bank) (sel : Option (Fin 8)) (auto : Bool) (body : List Byte),
    body = [match sel with | some i => BitVec.ofNat 8 i.val | none => 0xFF#8, if auto = true then 1#8 else 0#8] →
    ∃ steps,
      writesRecord steps bank (16384 - d.free) (startedHeader 2 255 d.nextWrite [] body) body false [.issued 48]
          [.bootLive ⟨d.nextWrite, sel, auto, 16384 - d.free⟩] ∧
        bootSteps d bank sel auto =
          steps ++
            match d.boot with
            | some old => [⟨.program bank old.offset [0x7F#8], false, [.madeDead 48]⟩]
            | none => []) ∧
  (∀ (m : Media) (d : Directory) (cur : Bank),
    let refresh (bank : Bank) : List MediaStep :=
      [⟨.erase bank, true, []⟩,
       ⟨.program bank 0 (freshBytes (m.takenCount bank + 1)), true, [.freshCounted bank (m.takenCount bank + 1)]⟩]
    let worn := decide (50000 ≤ m.takenCount cur)
    ∃ (rs : List InForce) (copies : List (List MediaStep)), d.ordered rs ∧ copies.length = rs.length ∧
      (∀ k (h : k < rs.length) (h' : k < copies.length),
        writesRecord copies[k] cur.other (copyAt rs k) (0xFE#8 :: m.slice cur (rs[k].offset + 1) 26)
          (m.slice cur (rs[k].offset + 32) rs[k].bodyLength) true [] []) ∧
      (compactionSteps m d cur).2 = worn ∧
      (compactionSteps m d cur).1 =
        (if m.bankState cur.other = some .fresh then [] else refresh cur.other) ++
          ⟨.program cur.other 0 (0xFC#8 :: be4 (fromBe (m.slice cur 1 4) + 1)), true, []⟩ :: copies.flatten ++
          [⟨.program cur.other 0 [0xF8#8], true, [.becameCurrent cur.other]⟩, ⟨.program cur 0 [0xF0#8], true, []⟩] ++
          (if worn = true then [] else refresh cur)) ∧
  (∀ (m : Media) (onErase onDone : List StoreEffect),
    let refresh (bank : Bank) : List MediaStep :=
      [⟨.erase bank, false, onErase⟩,
       ⟨.program bank 0 (freshBytes (m.takenCount bank + 1)), false, [.freshCounted bank (m.takenCount bank + 1)]⟩]
    formatSteps m onErase onDone =
      refresh .a ++ refresh .b ++
        [⟨.program .a 0 [0xFC#8, 0#8, 0#8, 0#8, 1#8], false, []⟩, ⟨.program .a 0 [0xF8#8], false, onDone⟩]) ∧
  (∀ (d : Directory) (new : Bank), ∃ rs, d.ordered rs ∧
    (d.repacked new).bank = some new ∧ (d.repacked new).dead = 0 ∧ (d.repacked new).nextWrite = d.nextWrite ∧
    (d.repacked new).free = 16352 - (rs.map fun r => spaceFor r.bodyLength).sum ∧
    (∀ i, d.slots.get i = none → (d.repacked new).slots.get i = none) ∧
    (d.boot = none → (d.repacked new).boot = none) ∧
    (∀ k (h : k < rs.length), (∀ j (h' : j < rs.length), j < k → rs[j].offset ≠ rs[k].offset) →
      (∀ i e, d.slots.get i = some e → e.offset = rs[k].offset →
        (d.repacked new).slots.get i = some { e with offset := copyAt rs k }) ∧
      ∀ b, d.boot = some b → b.offset = rs[k].offset →
        (d.repacked new).boot = some { b with offset := copyAt rs k })) ∧
  (∀ st : Store,
    (∀ size, StoreEffect.apply st (.issued size) =
      { st with dir := { st.dir with nextWrite := st.dir.nextWrite + 1, free := st.dir.free - size } }) ∧
    (∀ slot e, StoreEffect.apply st (.profileLive slot e) =
      { st with dir := { st.dir with slots := st.dir.slots.set slot (some e) } }) ∧
    (∀ b, StoreEffect.apply st (.bootLive b) = { st with dir := { st.dir with boot := some b } }) ∧
    (∀ size, StoreEffect.apply st (.madeDead size) = { st with dir := { st.dir with dead := st.dir.dead + size } }) ∧
    (∀ slot, StoreEffect.apply st (.slotEmptied slot) =
      { st with dir := { st.dir with slots := st.dir.slots.set slot none } }) ∧
    (∀ bank, StoreEffect.apply st (.becameCurrent bank) =
      { st with
        dir := st.dir.repacked bank
        job := match st.job with | some j => some { j with compacted := true } | none => none }) ∧
    (∀ n, StoreEffect.apply st (.freshCounted .a n) = { st with countA := n } ∧
      StoreEffect.apply st (.freshCounted .b n) = { st with countB := n }) ∧
    StoreEffect.apply st .formatted =
      { st with dir := ⟨Row.fill 8 none, none, some .a, 1, 16352, 0⟩ } ∧
    StoreEffect.apply st .repaired =
      { st with job := match st.job with | some j => some { j with repairs := j.repairs + 1 } | none => none })

/-- PROFILE_DELETE (R110): the refusals in their order; then it is ACCEPTED, with one step that marks the slot's record DEAD
and, once verified, empties the slot and adds the record's size to the dead bytes. STORE_FORMAT (R112): STORE_BUSY while an
operation is in progress; taken in READ_ONLY too. It reads both erase counts. With both banks below the wear limit it is
ACCEPTED with its steps begun, the slots and the boot selection empty and no current bank; that the free and the dead bytes
and the next write number read as after a reset meanwhile is the model's reading of R105 and R112 (entry 27). Else it ends
at once as VERIFY_FAILED and the directory stays. -/
def Obligations.ProfileDeleteAndFormatAreAccepted : Prop :=
  (∀ (s : State) (q : Req) (n : Byte), s.ready 27 q → q.params = [n] →
      (8 ≤ n.toNat → Answers (.profileDelete q) s 27 q s (.badValue 1) []) ∧
      (∀ slot : Fin 8, n.toNat = slot.val →
        (s.store.status = .busy → Answers (.profileDelete q) s 27 q s .storeBusy []) ∧
        (s.store.status = .readOnly → Answers (.profileDelete q) s 27 q s .storeReadOnly []) ∧
        (s.store.status = .ready → s.store.dir.slots.get slot = none →
          Answers (.profileDelete q) s 27 q s .emptySlot []) ∧
        (∀ bank e, s.store.status = .ready → s.store.dir.bank = some bank → s.store.dir.slots.get slot = some e →
          Answers (.profileDelete q) s 27 q
            { s with
              store :=
                { s.store with
                  status := .busy
                  job :=
                    some
                      ⟨.op (.delete slot),
                        [⟨.program bank e.offset [0x7F#8], false,
                          [.madeDead (32 + (e.bodyLength + 15) / 16 * 16), .slotEmptied slot]⟩],
                        false, false, false, 0⟩ } }
            .accepted []))) ∧
  (∀ (s : State) (q : Req), s.ready 29 q → q.params = [] →
      (s.store.status = .busy → Answers (.storeFormat q) s 29 q s .storeBusy []) ∧
      (s.store.status ≠ .busy → s.media.takenCount .a < 50000 → s.media.takenCount .b < 50000 →
        Answers (.storeFormat q) s 29 q
          { s with
            store :=
              { s.store with
                status := .busy, dir := Directory.blank,
                countA := s.media.takenCount .a, countB := s.media.takenCount .b,
                job := some ⟨.op .format, formatSteps s.media [] [.formatted], false, false, false, 0⟩ } }
          .accepted []) ∧
      (s.store.status ≠ .busy → (50000 ≤ s.media.takenCount .a ∨ 50000 ≤ s.media.takenCount .b) →
        Answers (.storeFormat q) s 29 q
          { s with
            store :=
              { s.store with
                status := .readOnly, job := none, countA := s.media.takenCount .a, countB := s.media.takenCount .b }
            notices := s.notices.raise (.report (.storeDone .format .verifyFailed false)) } .accepted []))

/-- BOOT_SET (R106, R109, R111, R114): the refusals in their order, EMPTY_SLOT for a slot without a profile; then it is
ACCEPTED, with the steps of its record and of the previous selection's DEAD marking where 48 bytes are free; else with those
of a compaction before them, unless wear blocks that compaction's first erase, when the operation ends at once as
VERIFY_FAILED in READ_ONLY. -/
def Obligations.BootSetIsAccepted : Prop :=
  ∀ (s : State) (q : Req) (n a : Byte), s.ready 28 q → q.params = [n, a] →
    (8 ≤ n.toNat → n.toNat < 255 → Answers (.bootSet q) s 28 q s (.badValue 1) []) ∧
    (∀ sel : Option (Fin 8), (n.toNat = 255 ∧ sel = none ∨ ∃ i : Fin 8, n.toNat = i.val ∧ sel = some i) →
      (1 < a.toNat → Answers (.bootSet q) s 28 q s (.badValue 2) []) ∧
      (a.toNat ≤ 1 → s.store.status = .busy → Answers (.bootSet q) s 28 q s .storeBusy []) ∧
      (a.toNat ≤ 1 → s.store.status = .readOnly → Answers (.bootSet q) s 28 q s .storeReadOnly []) ∧
      (∀ i, a.toNat ≤ 1 → s.store.status = .ready → sel = some i → s.store.dir.slots.get i = none →
        Answers (.bootSet q) s 28 q s .emptySlot []) ∧
      (∀ bank, a.toNat ≤ 1 → s.store.status = .ready → s.store.dir.bank = some bank →
        (∀ i, sel = some i → s.store.dir.slots.get i ≠ none) →
        (48 ≤ s.store.dir.free →
          Answers (.bootSet q) s 28 q
            { s with
              store :=
                { s.store with
                  status := .busy
                  job :=
                    some
                      ⟨.op (.bootSet sel), bootSteps s.store.dir bank sel (decide (a = 1)), false, false, false, 0⟩ } }
            .accepted []) ∧
        (s.store.dir.free < 48 →
          (s.media.bankState bank.other ≠ some .fresh ∧ 50000 ≤ s.media.takenCount bank.other →
            Answers (.bootSet q) s 28 q
              { s with
                store := { s.store with status := .readOnly, job := none }
                notices := s.notices.raise (.report (.storeDone (.bootSet sel) .verifyFailed false)) } .accepted []) ∧
          (¬ (s.media.bankState bank.other ≠ some .fresh ∧ 50000 ≤ s.media.takenCount bank.other) →
            Answers (.bootSet q) s 28 q
              { s with
                store :=
                  { s.store with
                    status := .busy
                    job :=
                      some
                        ⟨.op (.bootSet sel),
                          (compactionSteps s.media s.store.dir bank).1 ++
                            bootSteps (s.store.dir.repacked bank.other) bank.other sel (decide (a = 1)),
                          false, (compactionSteps s.media s.store.dir bank).2, false, 0⟩ } }
              .accepted []))))

/-- PROFILE_LOAD (R36, R116): the refusals in their order; a record whose body CRC matches and whose body is a plan in range
replaces the staged plan, and nothing else changes. -/
def Obligations.ProfileLoadReplacesTheStagedPlan : Prop :=
  ∀ (s : State) (q : Req) (n : Byte), s.ready 30 q → q.params = [n] →
    (8 ≤ n.toNat → Answers (.profileLoad q) s 30 q s (.badValue 1) []) ∧
    (∀ slot : Fin 8, n.toNat = slot.val →
      (s.store.status = .busy → Answers (.profileLoad q) s 30 q s .storeBusy []) ∧
      (s.store.status ≠ .busy → s.plans.commitPending = true →
        Answers (.profileLoad q) s 30 q s .commitPending []) ∧
      (s.store.status ≠ .busy → s.plans.commitPending = false → s.store.dir.slots.get slot = none →
        Answers (.profileLoad q) s 30 q s .emptySlot []) ∧
      (∀ bank e, s.store.status ≠ .busy → s.plans.commitPending = false → s.store.dir.bank = some bank →
        s.store.dir.slots.get slot = some e →
        let body := s.media.slice bank (e.offset + 32) e.bodyLength
        let stored := fromBe (s.media.slice bank (e.offset + 21) 4)
        (∀ p, (crc32 body).toNat = stored → Plan.ofBytes body = some p →
          Answers (.profileLoad q) s 30 q { s with plans := { s.plans with staged := p } } .ok []) ∧
        ((crc32 body).toNat ≠ stored ∨ Plan.ofBytes body = none →
          Answers (.profileLoad q) s 30 q s .recordBad [])))

/-- PROFILE_LIST and STORE_STATUS (R117, R118) change nothing. The list gives each slot, empty or with name, body length
and write number, then the boot selection; the status gives state, current bank, free and dead bytes, erase counts, and the
operation in progress with its slot and whether a compaction is under way, which is whether the step under way is one of a
compaction's. The code of the bank is entry 14's, the layout of both entry 29's. -/
def Obligations.StoreReportsChangeNothing : Prop :=
  ∀ (s : State) (q : Req), q.params = [] →
    (s.ready 31 q →
      Answers (.profileList q) s 31 q s .ok
        ((s.store.dir.slots.cells.map fun e =>
            match e with
            | none => [0x00#8]
            | some e => [0x01#8] ++ be1 e.name.length ++ e.name ++ be2 e.bodyLength ++ be4 e.writeNumber).flatten ++
          match s.store.dir.boot with
          | some ⟨_, some i, auto, _⟩ => be1 i.val ++ be1 (if auto then 1 else 0)
          | some ⟨_, none, auto, _⟩ => [0xFF#8] ++ be1 (if auto then 1 else 0)
          | none => [0xFF#8, 0x00#8])) ∧
    (s.ready 32 q →
      let head :=
        be1 s.store.status.code ++ be1 (bankCode s.store.dir.bank) ++ be2 s.store.dir.free ++
          be2 s.store.dir.dead ++ be4 s.store.countA ++ be4 s.store.countB
      (s.store.job = none → Answers (.storeStatus q) s 32 q s .ok (head ++ [0x00#8])) ∧
      (∀ j op step rest, s.store.job = some j → j.kind = .op op → j.steps = step :: rest →
        Answers (.storeStatus q) s 32 q s .ok
          (head ++ [0x01#8] ++
            (match op with
              | .save i => [0x00#8, BitVec.ofNat 8 i.val]
              | .delete i => [0x01#8, BitVec.ofNat 8 i.val]
              | .bootSet (some i) => [0x02#8, BitVec.ofNat 8 i.val]
              | .bootSet none => [0x02#8, 0xFF#8]
              | .format => [0x03#8, 0xFF#8]) ++
            [if step.compacting = true then 0x01#8 else 0x00#8])))

/-! ## Sessions (chapter 9) -/

/-- GOODBYE is answered OK and leaves the intake awaiting the end of its reply (R154); RESTART likewise, unless the store is
BUSY (R124). -/
def Obligations.GoodbyeAndRestartAwaitTheirReply : Prop :=
  ∀ (s : State) (q : Req), q.params = [] →
    (s.ready 35 q →
      Answers (.goodbye q) s 35 q { s with session := { s.session with intake := .awaitingGoodbye } } .ok []) ∧
    (s.ready 33 q → s.store.status ≠ .busy →
      Answers (.restart q) s 33 q { s with session := { s.session with intake := .awaitingRestart } } .ok []) ∧
    (s.ready 33 q → s.store.status = .busy → Answers (.restart q) s 33 q s .storeBusy [])

/-- HELLO (R153), at any stage after the reset and with or without a session: a version other than 1 is VERSION, another field
out of range BAD_VALUE (that VERSION comes first when both apply is the model's reading, entry 50); otherwise the session is OPEN with the fields' values, the reply cache empty, every notice unsent, and
the identity block returned. -/
def Obligations.HelloOpensASession : Prop :=
  ∀ (s : State) (q : Req) (version resend lapse policy : Nat), s.live = true → s.canTake = true →
    s.admits 34 q → version ≤ 255 → resend ≤ 65535 → lapse ≤ 65535 → policy ≤ 255 →
    q.params = be1 version ++ be2 resend ++ be2 lapse ++ be1 policy →
    (version ≠ 1 → Answers (.hello q) s 34 q s .version []) ∧
    (version = 1 → ¬ (10 ≤ resend ∧ resend ≤ 5000) → Answers (.hello q) s 34 q s (.badValue 2) []) ∧
    (version = 1 → 10 ≤ resend → resend ≤ 5000 → lapse ≠ 0 → ¬ (100 ≤ lapse ∧ lapse ≤ 60000) →
      Answers (.hello q) s 34 q s (.badValue 3) []) ∧
    (version = 1 → 10 ≤ resend → resend ≤ 5000 → (lapse = 0 ∨ 100 ≤ lapse ∧ lapse ≤ 60000) → 1 < policy →
      Answers (.hello q) s 34 q s (.badValue 4) []) ∧
    (version = 1 → 10 ≤ resend → resend ≤ 5000 → (lapse = 0 ∨ 100 ≤ lapse ∧ lapse ≤ 60000) → policy ≤ 1 →
      ∃ t rev, exec (.hello q) s = .next t ∧ 1 ≤ rev ∧ rev ≤ 255 ∧ t.link.waiting = none ∧
        t.replied
          (replyTo 34 q .ok
            ([0x55#8, 0x51#8, 0x38#8, 0x34#8] ++ be1 rev ++ be1 s.startup.cause.code ++ be1 s.seq.mode.code ++
              be1 s.store.status.code ++ be2 s.notices.entries.length)) ∧
        t.session.cache = [] ∧ (∀ n ∈ t.notices.entries, n.sent = false) ∧
        t.agrees
          { s with
            session :=
              { s.session with
                isOpen := true, resend := resend, lapseTime := lapse,
                lapsePolicy := if policy = 0 then .notify else .halt,
                lapseTimer := if lapse = 0 then none else some 0 }
            notices := { s.notices with resend := resend } })

/-- STATUS (R22, R156), at any stage after the reset and with or without a session, changes nothing and shows the sequencer,
the halt record in HALTED alone, the finish flag (set 0, clear 1), the pending commit, the levels of both queues, the
store, the STOP line (asserted 0, released 1) and the holds; the two codes are read from R172 (entry 13). -/
def Obligations.StatusShowsTheState : Prop :=
  ∀ (s : State) (q : Req), s.live = true → s.canTake = true → s.admits 36 q → q.params = [] →
    Answers (.status q) s 36 q s .ok
      (be1 s.seq.mode.code ++ be4 s.seq.cycle.toNat ++ be3 s.seq.phase ++
        (if s.seq.mode = .halted then optItem (s.seq.halt.map HaltRecord.bytes) else [0x00#8]) ++
        be1 (if s.seq.finish then 0 else 1) ++
        optItem (s.seq.remaining.map be2) ++
        be1 (if s.plans.commitPending then 1 else 0) ++ be1 s.captures.records.length ++
        be2 s.notices.entries.length ++ be1 s.store.status.code ++
        be1 (if s.filters.stop.level = .low then 0 else 1) ++ be1 s.holdMask)

/-- COUNTERS_READ (R157) changes nothing and returns the group's counters; COUNTERS_CLEAR (R158) makes every counter of the
group 0 and changes nothing else; for both, another group number is BAD_VALUE with index 1. WINDOWS gives for each id from 1
to 15 whether it is in the active table, for one that is its state and, as an optional item, its first hit when MET, and the
id's three counters (R98, R172); that it is the first row of a loaded table that repeats the id is the model's choice
(entry 46). -/
def Obligations.CountersReadAndClearAGroup : Prop :=
  (∀ (s : State) (q : Req) (g : Byte), s.ready 37 q → q.params = [g] →
      (g = 0 →
        Answers (.countersRead q) s 37 q s .ok
          (s.timeline.tallies.cells.map fun t =>
            be4 t.applied ++ be4 t.gatedOff ++ be4 t.suppressed ++ be4 t.truncated).flatten) ∧
      (g = 1 →
        Answers (.countersRead q) s 37 q s .ok
          (s.captures.tallies.cells.map fun t => be4 t.stored ++ be4 t.dropped ++ be4 t.early).flatten) ∧
      (g = 2 →
        Answers (.countersRead q) s 37 q s .ok
          (List.ofFn fun k : Fin 15 =>
            let tally := s.monitor.tallies.get k
            (match s.monitor.table.find? fun w => decide (w.window.id = k.val + 1) with
              | none => [0x00#8]
              | some w =>
                [0x01#8] ++
                  (match w.state, w.hit with
                    | .pending, _ => [0x00#8, 0x00#8]
                    | .opened, _ => [0x01#8, 0x00#8]
                    | .met, some hit => [0x02#8, 0x01#8] ++ be3 hit
                    | .met, none => [0x02#8, 0x00#8]
                    | .missed, _ => [0x03#8, 0x00#8]
                    | .abandoned, _ => [0x04#8, 0x00#8])) ++
              be4 tally.met ++ be4 tally.missed ++ be4 tally.cut).flatten) ∧
      (g = 3 →
        Answers (.countersRead q) s 37 q s .ok
          (be4 s.link.counters.framesGood ++ be4 s.link.counters.gap ++ be4 s.link.counters.crc ++
            be4 s.link.counters.lengthError ++ be4 s.link.counters.badBody ++ be4 s.link.counters.overrun ++
            be4 s.link.counters.lineError ++ be4 s.link.counters.staleAck ++ be4 s.link.counters.repliesSent ++
            be4 s.link.counters.noticesSent)) ∧
      (3 < g.toNat → Answers (.countersRead q) s 37 q s (.badValue 1) [])) ∧
  (∀ (s : State) (q : Req) (g : Byte), s.ready 38 q → q.params = [g] →
      (g = 0 →
        Answers (.countersClear q) s 38 q
          { s with timeline := { s.timeline with tallies := Row.fill 8 ⟨0, 0, 0, 0⟩ } } .ok []) ∧
      (g = 1 →
        Answers (.countersClear q) s 38 q
          { s with captures := { s.captures with tallies := Row.fill 4 ⟨0, 0, 0⟩ } } .ok []) ∧
      (g = 2 →
        Answers (.countersClear q) s 38 q
          { s with monitor := { s.monitor with tallies := Row.fill 15 ⟨0, 0, 0⟩ } } .ok []) ∧
      (g = 3 →
        Answers (.countersClear q) s 38 q
          { s with link := { s.link with counters := ⟨0, 0, 0, 0, 0, 0, 0, 0, 0, 0⟩ } } .ok []) ∧
      (3 < g.toNat → Answers (.countersClear q) s 38 q s (.badValue 1) []))
/-! ## Taking requests (09 sections 9.1 and 9.2) -/

/-- For every request of the catalogue: before start-up is COMPLETE it is STARTING, and without a session NO_SESSION, HELLO and
STATUS apart (R148); while it cannot be taken it waits (R141, R147), and with another frame waiting it is an overrun
(R140): that a request's own command is its frame reaching the holding is the model's choice (entry 6). Parameter bytes that are not as many as its fields and its presence byte call for are BAD_LENGTH, for HELLO and STATUS
too (R148, R172). The waiting frame is due to be taken when it is an ACK or the intake can take a request; taking it is the
command of its body, and a code outside the catalogue is answered STARTING, NO_SESSION or UNKNOWN_REQUEST (R147, R148). -/
def Obligations.RequestsAreGated : Prop :=
  (∀ (s : State) (code : Nat) (q : Req) (c : Instr), requestOf code q = some c → s.live = true →
    (s.admits code q → s.canTake = true → code ≠ 34 → code ≠ 36 → s.startup.stage ≠ .complete →
      Answers c s code q s .starting []) ∧
    (s.admits code q → s.canTake = true → code ≠ 34 → code ≠ 36 → s.startup.stage = .complete →
      s.session.isOpen = false → Answers c s code q s .noSession []) ∧
    (s.admits code q → s.canTake = false →
      exec c s = .next { s with link := { s.link with waiting := some ⟨requestBody code q, q.crc⟩ } }) ∧
    (∀ f, s.link.waiting = some f → f ≠ ⟨requestBody code q, q.crc⟩ →
      exec c s =
        .next
          { s with
            link := { s.link with counters := { s.link.counters with overrun := bump s.link.counters.overrun } } }) ∧
    (s.ready code q → ¬ paramsFit code q.params → Answers c s code q s .badLength []) ∧
    ((code = 34 ∨ code = 36) → s.admits code q → s.canTake = true → ¬ paramsFit code q.params →
      Answers c s code q s .badLength [])) ∧
  (∀ (s : State) (f : Frame), s.live = true → s.link.waiting = some f →
    (.takeFrame f ∈ s.dueAll ↔ f.body.head? = some 0x04#8 ∨ s.canTake = true) ∧
    (∀ hi lo, f.body = [0x04#8, hi, lo] → s.takeDue (.takeFrame f) = exec (.ack (hi ++ lo)) s) ∧
    (∀ tag code params, f.body = 0x01#8 :: tag :: code :: params →
      let q : Req := ⟨tag, f.crc, params⟩
      let answered (status : Status) : Prop :=
        ∃ t, s.takeDue (.takeFrame f) = .next t ∧ t.agrees s ∧ t.replied (replyTo code.toNat q status []) ∧
          t.link.waiting = none
      (∀ c, requestOf code.toNat q = some c → s.takeDue (.takeFrame f) = exec c s) ∧
      ((code.toNat = 0 ∨ 38 < code.toNat) → s.canTake = true →
        (s.startup.stage ≠ .complete → answered .starting) ∧
        (s.startup.stage = .complete → s.session.isOpen = false → answered .noSession) ∧
        (s.startup.stage = .complete → s.session.isOpen = true → s.cachedReply code.toNat q = none →
          answered .unknownRequest))))

/-- The reply cache (R150, R151): a request with the tag and CRC of an entry, its tag not 0, is answered by the entry's reply
with the repeat flag and changes nothing; one that is examined replaces any entry with its tag by its own reply, the newest
of at most four. STATUS, a request with tag 0, and one refused STARTING or NO_SESSION are answered anew and leave the cache as
it is; a HELLO that opens a session empties it, and a refused one leaves it (R153). -/
def Obligations.RepliesAreCachedAndResent : Prop :=
  (∀ (s : State) (code : Nat) (q : Req) (c : Instr), requestOf code q = some c → code ≠ 34 → code ≠ 36 → q.tag ≠ 0 →
    (∀ r, s.live = true → s.startup.stage = .complete → s.session.isOpen = true → s.canTake = true →
      s.admits code q →
      (s.session.cache.find? fun e => decide (e.tag = q.tag ∧ e.crc = q.crc)) = some ⟨q.tag, q.crc, r⟩ →
      ∃ t, exec c s = .next t ∧ t.agrees s ∧ t.session.cache = s.session.cache ∧
        t.replied { r with repeated := true } ∧ t.link.waiting = none) ∧
    (s.ready code q →
      ∃ t status payload, exec c s = .next t ∧ t.replied (replyTo code q status payload) ∧
        t.session.cache =
          ((s.session.cache.filter fun e => decide (e.tag ≠ q.tag)).drop
            ((s.session.cache.filter fun e => decide (e.tag ≠ q.tag)).length - 3)) ++
            [⟨q.tag, q.crc, replyTo code q status payload⟩])) ∧
  (∀ (s : State) (code : Nat) (q : Req) (c : Instr), requestOf code q = some c → s.live = true → s.canTake = true →
    s.admits code q →
    (code = 36 ∨
      code ≠ 34 ∧ (q.tag = 0 ∨ s.startup.stage ≠ .complete ∨ s.session.isOpen = false)) →
    ∃ t status payload, exec c s = .next t ∧ t.replied (replyTo code q status payload) ∧
      t.session.cache = s.session.cache) ∧
  (∀ (s : State) (q : Req), s.live = true → s.canTake = true → s.admits 34 q →
    ∃ t, exec (.hello q) s = .next t ∧
      (¬ paramsFit 34 q.params → t.session.cache = s.session.cache) ∧
      ∀ version resend lapse policy : Nat, version ≤ 255 → resend ≤ 65535 → lapse ≤ 65535 → policy ≤ 255 →
        q.params = be1 version ++ be2 resend ++ be2 lapse ++ be1 policy →
        let opens : Prop :=
          version = 1 ∧ 10 ≤ resend ∧ resend ≤ 5000 ∧ (lapse = 0 ∨ 100 ≤ lapse ∧ lapse ≤ 60000) ∧ policy ≤ 1
        (opens → t.session.cache = []) ∧ (¬ opens → t.session.cache = s.session.cache))

/-! ## The link (chapter 8) -/

/-- An occurrence enters the notice queue by its cases (R159 to R163): one of a merging kind merges into the entry of its kind
and subject, which keeps its first cycle and origin; without such an entry it takes a new entry behind the others while
fewer than 16 ordinary ones are present, as every other kind does; else it goes to NOTICE_LOSS, which counts it and carries
its kind. ACK (R147, R166): taken in any intake and without a session; the entry with its number is removed and the others
keep their order; with none, the stale-ACK counter rises by one. No frame waits then; behind another waiting frame it is
discarded as an overrun (R140). Nothing else changes. -/
def Obligations.NoticesAreRaisedAndAcknowledged : Prop :=
  (∀ q : Notices, q.ok →
    let full : Prop := 16 ≤ (q.entries.filter fun n => !n.isLoss).length
    let held (kind : MergeKind) : Prop := ∃ n ∈ q.entries, ∃ first last, n.content = .merging kind first last
    (∀ kind cycle before n after first last, q.entries = before ++ n :: after → n.content = .merging kind first last →
      Notices.merged before n after q (q.raise (.merging kind cycle)) (.merging kind first cycle)) ∧
    (∀ kind cycle, ¬ held kind → ¬ full → q.gained (q.raise (.merging kind cycle)) (.merging kind cycle cycle) true) ∧
    (∀ r, ¬ full → q.gained (q.raise (.report r)) (.report r) false) ∧
    (∀ o, full → ((∃ r, o = .report r) ∨ ∃ kind cycle, o = .merging kind cycle ∧ ¬ held kind) →
      (∀ before n after last, q.entries = before ++ n :: after → n.content = .loss last →
        Notices.merged before n after q (q.raise o) (.loss o.code)) ∧
      ((∀ n ∈ q.entries, n.isLoss = false) → q.gained (q.raise o) (.loss o.code) true))) ∧
  (∀ (s : State) (k : W16), s.live = true →
    let body : List Byte := 0x04#8 :: be2 k.toNat
    ((∀ f, s.link.waiting = some f → f.body = body) → (∃ n ∈ s.notices.entries, n.number = k.toNat) →
      exec (.ack k) s =
        .next
          { s with
            link := { s.link with waiting := none }
            notices :=
              { s.notices with entries := s.notices.entries.filter fun n => decide (n.number ≠ k.toNat) } }) ∧
    ((∀ f, s.link.waiting = some f → f.body = body) → (∀ n ∈ s.notices.entries, n.number ≠ k.toNat) →
      exec (.ack k) s =
        .next
          { s with
            link :=
              { s.link with
                waiting := none
                counters := { s.link.counters with staleAck := bump s.link.counters.staleAck } } }) ∧
    (∀ f, s.link.waiting = some f → f.body ≠ body →
      exec (.ack k) s =
        .next
          { s with
            link :=
              { s.link with counters := { s.link.counters with overrun := bump s.link.counters.overrun } } }))

/-- FRAME_RECEIVED, the bytes of a whole frame at an assembler in SEARCHING, or those of the complete frame that it holds (R138
to R140, R170): with the right CRC it is counted good and restarts a running lapse timer, and a body of a request or an
acknowledgement is offered to the holding, an overrun when a frame waits, any other body a bad one. With a wrong CRC it counts
as a CRC error, and its held bytes are examined again as arriving bytes are, a frame that they complete checked like any
other and one that they end inside left with the gap timer of the last byte on the line (R137, R138; the frames that one
re-examination completes come one behind another, entries 33 and 42). Nothing else changes. -/
def Obligations.FrameReceivedIsCheckedAndOffered : Prop :=
  ∀ (s : State) (body : List Byte) (crc : W16) (elapsed : Nat), s.live = true → 1 ≤ body.length → body.length ≤ 250 →
    let bytes := be1 body.length ++ body ++ be2 crc.toNat
    (s.link.asm = ⟨.searching, [], none, none⟩ ∧ elapsed = 0 ∨
      s.link.asm = ⟨.check, bytes, some body.length, some elapsed⟩) →
    let kind := (body.head? = some 0x01#8 ∧ 3 ≤ body.length) ∨ (body.head? = some 0x04#8 ∧ body.length = 3)
    let empty : State := { s with link := { s.link with asm := ⟨.searching, [], none, none⟩ } }
    let good : State :=
      { empty with
        link :=
          { empty.link with counters := { s.link.counters with framesGood := bump s.link.counters.framesGood } }
        session :=
          { s.session with
            lapseTimer :=
              if s.session.isOpen = true ∧ s.session.lapseTime ≠ 0 then some 0 else s.session.lapseTimer } }
    let bad : State :=
      { empty with link := { empty.link with counters := { s.link.counters with crc := bump s.link.counters.crc } } }
    (crc = crc16 (be1 body.length ++ body) → kind → s.link.waiting = none →
      exec (.frameReceived bytes) s =
        .next { good with link := { good.link with waiting := some ⟨body, crc⟩ } }) ∧
    (crc = crc16 (be1 body.length ++ body) → kind → s.link.waiting ≠ none →
      exec (.frameReceived bytes) s =
        .next
          { good with
            link :=
              { good.link with
                counters := { good.link.counters with overrun := bump good.link.counters.overrun } } }) ∧
    (crc = crc16 (be1 body.length ++ body) → ¬ kind →
      exec (.frameReceived bytes) s =
        .next
          { good with
            link :=
              { good.link with
                counters := { good.link.counters with badBody := bump good.link.counters.badBody } } }) ∧
    (crc ≠ crc16 (be1 body.length ++ body) →
      ((∀ b ∈ bytes, b ≠ 0xD5#8) → exec (.frameReceived bytes) s = .next bad) ∧
      ∃ t, FedTo bytes bad t ∧
        exec (.frameReceived bytes) s =
          .next
            { t with
              link :=
                { t.link with asm := { t.link.asm with gap := t.link.asm.gap.map fun _ => elapsed } } })

/-- CHARACTER_RECEIVED (R133, R136): a line error is counted and its character delivered; in SEARCHING only SYNC begins a
frame; in LENGTH 1 to 250 begins the body and another value is a length error; in BODY and CHECK bytes are held; each byte
inside a frame restarts the gap timer; a byte behind a complete frame is examined once that frame has been checked.
GAP_TIMER_EXPIRY (R137): 4 ms after a frame's last byte the frame is discarded and counted, and its held bytes are examined
again as arriving bytes are; a frame that they end inside has timed out too, and so on (entry 33). -/
def Obligations.CharactersFeedTheAssembler : Prop :=
  ∀ (s : State) (b : Byte) (bad : Bool), s.live = true →
    (let s' : State :=
        if bad = true then
          { s with
            link := { s.link with counters := { s.link.counters with lineError := bump s.link.counters.lineError } } }
        else s
      let a := s.link.asm
      (a.state = .searching → b ≠ 0xD5#8 → exec (.characterReceived b bad) s = .next s') ∧
      (a.state = .searching → b = 0xD5#8 →
        exec (.characterReceived b bad) s =
          .next { s' with link := { s'.link with asm := ⟨.length, [], none, some 0⟩ } }) ∧
      (a.state = .length → 1 ≤ b.toNat → b.toNat ≤ 250 →
        exec (.characterReceived b bad) s =
          .next { s' with link := { s'.link with asm := ⟨.body, [b], some b.toNat, some 0⟩ } }) ∧
      (a.state = .length → (b = 0 ∨ 250 < b.toNat) →
        exec (.characterReceived b bad) s =
          .next
            { s' with
              link :=
                { s'.link with
                  asm := ⟨.searching, [], none, none⟩
                  counters := { s'.link.counters with lengthError := bump s'.link.counters.lengthError } } }) ∧
      (∀ n, a.state = .body → a.expected = some n →
        exec (.characterReceived b bad) s =
          .next
            { s' with
              link :=
                { s'.link with
                  asm := ⟨if a.held.length = n then .check else .body, a.held ++ [b], some n, some 0⟩ } }) ∧
      (∀ n, a.state = .check → a.expected = some n → a.held.length < n + 3 →
        exec (.characterReceived b bad) s =
          .next { s' with link := { s'.link with asm := ⟨.check, a.held ++ [b], some n, some 0⟩ } }) ∧
      (a.complete = true →
        ∃ u, exec (.frameReceived a.held) s' = .next u ∧
          exec (.characterReceived b bad) s = exec (.characterReceived b false) u)) ∧
    (∀ n, s.link.asm.gap = some n → 4000 ≤ n →
      let discarded : State :=
        { s with
          link :=
            { s.link with
              asm := ⟨.searching, [], none, none⟩
              counters := { s.link.counters with gap := bump s.link.counters.gap } } }
      ((∀ x ∈ s.link.asm.held, x ≠ 0xD5#8) → exec .gapTimerExpiry s = .next discarded) ∧
      ∃ t, FedTo s.link.asm.held discarded t ∧
        (t.link.asm.state = .searching → exec .gapTimerExpiry s = .next t) ∧
        (t.link.asm.state ≠ .searching →
          exec .gapTimerExpiry s =
            exec .gapTimerExpiry
              { t with link := { t.link with asm := { t.link.asm with gap := some 4000 } } }))

/-- The idle transmitter begins the oldest reply, else, in an OPEN session, the first unsent notice, which it marks sent and
shown with its timer stopped, else nothing (R143, R144, R164). The frame is SYNC, LEN, the body and the CRC over LEN and body
(R142, R169). A reply's body is 0x02, tag, request code, status, repeat flag, the status's data and the payload (R152, R171;
the layout of TOO_LATE's and PLAN_INVALID's data is entry 29's); a notice's is 17 bytes of header and the payload of its kind
(R173). -/
def Obligations.ArbiterServesRepliesFirst : Prop :=
  let frame (body : List Byte) : List Byte :=
    [0xD5#8, BitVec.ofNat 8 body.length] ++ body ++ be2 (crc16 (BitVec.ofNat 8 body.length :: body)).toNat
  (∀ s : State,
    (∀ owner sent, s.link.tx = .sending owner sent → s.arbitrate = s) ∧
    (∀ r rest, s.link.tx = .idle → s.link.outbox = r :: rest →
      s.arbitrate =
        { s with link := { s.link with outbox := rest, tx := .sending (.reply r.code r.status) (frame r.body) } }) ∧
    (∀ before n after, s.link.tx = .idle → s.link.outbox = [] → s.session.isOpen = true →
      s.notices.entries = before ++ n :: after → (∀ m ∈ before, m.sent = true) → n.sent = false →
      s.arbitrate =
        { s with
          link := { s.link with tx := .sending (.notice n.number) (frame n.body) }
          notices :=
            { s.notices with
              entries :=
                s.notices.entries.map fun m =>
                  if m.number = n.number then { m with sent := true, shown := true, timer := none } else m } }) ∧
    (s.link.tx = .idle → s.link.outbox = [] →
      (s.session.isOpen = false ∨ ∀ m ∈ s.notices.entries, m.sent = true) → s.arbitrate = s)) ∧
  (∀ (r : Reply) (edges index : Nat) (cycle : W32) (check : Check) (subject : Nat),
    r.body =
      [0x02#8, r.tag, r.code, BitVec.ofNat 8 r.status.code, if r.repeated = true then 0x01#8 else 0x00#8] ++
        r.status.data ++ r.payload ∧
    ([.ok, .accepted, .pending edges, .noSession, .starting, .version, .unknownRequest, .badLength, .badValue index,
        .notFound, .duplicateId, .tableFull, .commitPending, .noCommit, .tooLate none, .planInvalid check none,
        .planEmpty, .wrongState, .inhibited, .notHeld, .channelBusy, .storeBusy, .storeReadOnly, .emptySlot,
        .recordBad] : List Status).map Status.code = List.range 25 ∧
    (Status.tooLate (some cycle)).code = 14 ∧ (Status.planInvalid check (some subject)).code = 15 ∧
    (Status.pending edges).data = be2 edges ∧ Status.version.data = [0x01#8] ∧
    (Status.badValue index).data = be1 index ∧ (Status.tooLate none).data = [0x00#8] ∧
    (Status.tooLate (some cycle)).data = [0x01#8] ++ be4 cycle.toNat ∧
    (Status.planInvalid check none).data = be1 check.code ++ [0xFF#8] ∧
    (Status.planInvalid check (some subject)).data = be1 check.code ++ be1 subject ∧
    ((∀ e, r.status ≠ .pending e) → r.status ≠ .version → (∀ k, r.status ≠ .badValue k) →
      (∀ x, r.status ≠ .tooLate x) → (∀ k x, r.status ≠ .planInvalid k x) → r.status.data = []) ∧
    [Check.cycleRange, .startEdge, .offsetRange, .pulseEnd, .channelUnused, .edgeSpacing, .edgeBudget,
        .windowRange].map Check.code = [1, 2, 3, 4, 5, 6, 7, 8]) ∧
  (∀ n : Notice,
    let is (kind : Nat) (subject : Byte) (cycles payload : List Byte) : Prop :=
      n.body =
        [0x03#8] ++ be2 n.number ++ be1 kind ++ [subject] ++ be2 n.count ++ cycles ++ be2 n.origin ++ payload
    let none8 : List Byte := List.replicate 8 0x00#8
    (∀ kind first last, n.content = .merging kind first last →
      let cycles := be4 first.toNat ++ be4 last.toNat
      (kind = .cycleCut → is 1 0xFF#8 cycles []) ∧
      (∀ i, kind = .earlyStart i → is 2 (BitVec.ofNat 8 i.val) cycles []) ∧
      (kind = .starved → is 3 0xFF#8 cycles []) ∧
      (∀ id, kind = .windowMissed id → is 4 (BitVec.ofNat 8 id) cycles []) ∧
      (kind = .captureLevel → is 5 0xFF#8 cycles []) ∧
      (∀ i, kind = .captureLoss i → is 6 (BitVec.ofNat 8 i.val) cycles [])) ∧
    (∀ last, n.content = .loss last → is 7 0xFF#8 none8 (be1 last)) ∧
    (∀ cause cycle phase subject, n.content = .report (.halted ⟨cause, cycle, phase, subject⟩) →
      is 8 0xFF#8 none8
        (be1 cause.code ++ be4 cycle.toNat ++ be3 phase ++ [(subject.map (BitVec.ofNat 8)).getD 0xFF#8])) ∧
    (n.content = .report (.committed none) → is 9 0xFF#8 none8 (List.replicate 5 0x00#8)) ∧
    (∀ cycle, n.content = .report (.committed (some cycle)) → is 9 0xFF#8 none8 ([0x01#8] ++ be4 cycle.toNat)) ∧
    (∀ op result compacted, n.content = .report (.storeDone op result compacted) →
      is 10 0xFF#8 none8
        ((match op with
            | .save i => [0x00#8, BitVec.ofNat 8 i.val]
            | .delete i => [0x01#8, BitVec.ofNat 8 i.val]
            | .bootSet (some i) => [0x02#8, BitVec.ofNat 8 i.val]
            | .bootSet none => [0x02#8, 0xFF#8]
            | .format => [0x03#8, 0xFF#8]) ++
          [if result = .done then 0x00#8 else 0x01#8, if compacted = true then 0x01#8 else 0x00#8])) ∧
    (∀ cause scan slot boot auto, n.content = .report (.startup cause scan slot boot auto) →
      is 11 0xFF#8 none8
        (be1 cause.code ++ [if scan.readOnly = true then 0x01#8 else 0x00#8] ++ be2 scan.repairs ++
          be2 scan.corrupt ++ [if scan.formatted = true then 0x01#8 else 0x00#8] ++
          [((slot : Option (Fin 8)).map fun i => BitVec.ofNat 8 i.val).getD 0xFF#8] ++ be1 boot.code ++
          be1 auto.code)))

/-- TRANSMIT_FRAME_END (R142, R145, R154, R164): a notice's frame is counted and starts its resend timer while it is sent; a
reply's is counted; the end of GOODBYE's reply closes the session and the intake is TAKING again; the end of RESTART's is a
reset with cause RESTART that keeps the media (R124). Then the arbiter chooses. -/
def Obligations.TransmitFrameEndTellsTheOwner : Prop :=
  ∀ (s : State) (frame : List Byte), s.live = true →
    let counted : State :=
      { s with
        link :=
          { s.link with
            tx := .idle, counters := { s.link.counters with repliesSent := bump s.link.counters.repliesSent } } }
    (∀ k, s.link.tx = .sending (.notice k) frame →
      exec .transmitFrameEnd s =
        .next
          (State.arbitrate
            { s with
              link :=
                { s.link with
                  tx := .idle
                  counters := { s.link.counters with noticesSent := bump s.link.counters.noticesSent } }
              notices :=
                { s.notices with
                  entries :=
                    s.notices.entries.map fun n =>
                      if n.number = k ∧ n.sent = true then { n with timer := some ⟨0, s.notices.resend⟩ }
                      else n } })) ∧
    (∀ code status, s.link.tx = .sending (.reply code status) frame → s.session.intake = .taking →
      exec .transmitFrameEnd s = .next counted.arbitrate) ∧
    (s.link.tx = .sending (.reply 35#8 .ok) frame → s.session.intake = .awaitingGoodbye →
      exec .transmitFrameEnd s =
        .next
          (State.arbitrate
            { counted with
              session := { s.session with isOpen := false, lapseTimer := none, intake := .taking } })) ∧
    (s.link.tx = .sending (.reply 33#8 .ok) frame → s.session.intake = .awaitingRestart → s.store.job = none →
      exec .transmitFrameEnd s =
        .next
          { State.reset with
            media := s.media, filters := s.filters.resetBy
            startup := { State.reset.startup with cause := .restart }
            choices := s.choices, pending := s.pending })

/-- LAPSE (R18, R155): the session closes and its timer stops; under policy HALT a running sequencer halts with cause LAPSE at
the phase it reads, and otherwise nothing else changes. RESEND_TIMER_EXPIRY (R165): the entry is unsent again, in its
place, with its number. -/
def Obligations.LapseAndResendTimersExpire : Prop :=
  ∀ s : State, s.live = true →
    (∀ n, s.session.isOpen = true → s.session.lapseTime ≠ 0 → s.session.lapseTimer = some n →
      s.session.lapseTime * 1000 ≤ n →
      let closed : State := { s with session := { s.session with isOpen := false, lapseTimer := none } }
      (s.session.lapsePolicy = .notify ∨ s.seq.mode.running = false →
        ∃ t, exec .lapse s = .next t ∧ t.agrees closed) ∧
      (s.session.lapsePolicy = .halt → s.seq.mode.running = true →
        ∃ t, exec .lapse s = .next t ∧ LinkKept closed t ∧ HaltedFrom closed t .lapse s.seq.phase none)) ∧
    (∀ (k : W16) (n : Notice) (timer : ResendTimer), n ∈ s.notices.entries → n.number = k.toNat → n.timer = some timer →
      timer.interval * 1000 ≤ timer.elapsed →
      exec (.resendTimerExpiry k) s =
        .next
          (State.arbitrate
            { s with
              notices :=
                { s.notices with
                  entries :=
                    s.notices.entries.map fun m =>
                      if m.number = k.toNat then { m with timer := none, sent := false } else m } }))

/-! ## Inputs and the STOP line (chapter 4, 01 section 1.6, 03 section 3.4) -/

/-- INPUT_EDGE at the Cycle Controller and the Window Monitor (R8 to R10, R58, R94, R95, R97): an edge that is no start edge, or
comes in IDLE or HALTED, changes nothing of the sequencer; a start edge in ARMED or WAITING starts a cycle; in CYCLING below
the guard it is early, counted and told; from the guard on it cuts the cycle: its pulses are truncated, its windows abandoned
and CYCLE_CUT raised, and the next one starts unless a FINISH or the last cycle ends the run. The Window Monitor takes the edge
before the Cycle Controller, in the old cycle, or after it, at the phase it left. In each case the filter settles (R74). -/
def Obligations.InputEdgeFollowsTheDecisionTable : Prop :=
  ∀ (s : State) (i : Fin 4) (d : Slope), s.live = true → s.inputDue i d = true →
    let s' : State :=
      { s with
        filters :=
          { s.filters with
            inputs :=
              s.filters.inputs.set i
                { s.filters.inputs.get i with
                  level := (s.filters.inputs.get i).raw, cand := none, taken := true } } }
    let seen : State := { s' with monitor := s.monitor.meet i d s.seq.phase }
    let start : Prop :=
      s.block.source = .triggered ∧ i = s.block.startInput ∧
        (s.block.startEdge = .rise ∧ d = .rise ∨ s.block.startEdge = .fall ∧ d = .fall)
    let lastOf : Prop := s.seq.finish = true ∨ s.seq.remaining = some 0
    let cause : HaltCause := if s.seq.finish = true then .finished else .countDone
    ∃ t, exec (.inputEdge i d) s = .next t ∧ t.filters = s'.filters ∧ t.media = s.media ∧ t.store = s.store ∧
      t.startup = s.startup ∧ LinkKept s t ∧
      let took (does : State → State → Prop) (from_ : State → State) : Prop :=
        (∃ u, does (from_ seen) u ∧ t.tookFrom u i) ∨
          ∃ u, does (from_ s') u ∧ t.tookFrom { u with monitor := u.monitor.meet i d u.seq.phase } i
      ((¬ start ∨ s.seq.mode = .idle ∨ s.seq.mode = .halted) → t.tookFrom seen i) ∧
      (start → s.seq.mode = .armed ∨ s.seq.mode = .waiting → took StartedFrom id) ∧
      (start → s.seq.mode = .cycling → s.seq.phase < s.block.guard →
        t.tookFrom { seen with notices := s.notices.raise (.merging (.earlyStart i) s.seq.cycle) } i ∧
          (t.captures.tallies.get i).early = bump (s.captures.tallies.get i).early) ∧
      (start → s.seq.mode = .cycling → s.block.guard ≤ s.seq.phase → ¬ lastOf → took StartedFrom State.cutFrom) ∧
      (start → s.seq.mode = .cycling → s.block.guard ≤ s.seq.phase → lastOf →
        took (fun v u => HaltedFrom v u cause s.seq.phase none) State.cutFrom)

/-- INPUT_EDGE at the Capture Queue (R78 to R80, R82 to R85): captured in a running state when the selection names its direction,
the active plan's, or the new plan's for an edge that starts a cycle. The record carries the state the edge was taken in, and
by the Cycle Controller's decision role NONE, EARLY or START: an edge that starts a cycle has that cycle and phase 0, every
other the current cycle and phase. Its window is the lowest that it met, in the old cycle or, by a free choice of order
(entry 3), in what the Cycle Controller left. With room it is stored with the next sequence and the losses before it; in a full
queue it is dropped and counted. -/
def Obligations.CapturedEdgeBecomesARecord : Prop :=
  ∀ (s : State) (i : Fin 4) (d : Slope), s.live = true → s.inputDue i d = true →
    let start : Prop :=
      s.block.source = .triggered ∧ i = s.block.startInput ∧
        (s.block.startEdge = .rise ∧ d = .rise ∨ s.block.startEdge = .fall ∧ d = .fall)
    let lastOf : Prop := s.seq.finish = true ∨ s.seq.remaining = some 0
    let cutting : Prop := s.seq.mode = .cycling ∧ s.block.guard ≤ s.seq.phase
    let timing : Timing := if s.seq.mode = .armed then .armed else if s.seq.mode = .waiting then .waiting else .inCycle
    let met := (s.monitor.metIds i d s.seq.phase).min?
    let cut := s.notices.raise (.merging .cycleCut s.seq.cycle)
    let cause : HaltCause := if s.seq.finish = true then .finished else .countDone
    ∃ t, exec (.inputEdge i d) s = .next t ∧
      (s.seq.mode.running = false → t.captures = s.captures) ∧
      (s.seq.mode.running = true → ¬ start →
        (¬ s.plans.active.captures i d → t.captures = s.captures) ∧
        (s.plans.active.captures i d →
          t.recorded s.captures s.notices ⟨0, i, d, s.seq.cycle, s.seq.phase, timing, .none, met, none⟩)) ∧
      (start → s.seq.mode = .cycling → s.seq.phase < s.block.guard →
        let early : Captures :=
          { s.captures with
            tallies :=
              s.captures.tallies.set i
                { s.captures.tallies.get i with early := bump (s.captures.tallies.get i).early } }
        (¬ s.plans.active.captures i d → t.captures = early) ∧
        (s.plans.active.captures i d →
          t.recorded early (s.notices.raise (.merging (.earlyStart i) s.seq.cycle))
            ⟨0, i, d, s.seq.cycle, s.seq.phase, .inCycle, .early, met, none⟩)) ∧
      (start → s.seq.mode = .armed ∨ s.seq.mode = .waiting ∨ cutting ∧ ¬ lastOf →
        let ends := if s.seq.mode = .cycling then cut else s.notices
        let told :=
          if s.plans.commitPending = true then ends.raise (.report (.committed (some (s.seq.cycle + 1)))) else ends
        let opened :=
          ((t.monitor.table.map Watch.window).filter fun w =>
            decide (w.input = i ∧ w.edge = d ∧ w.openAt = 0 ∧ 0 < w.closeAt)).map Window.id
        ∃ window, (window = met ∨ window = opened.min?) ∧
          (¬ t.plans.active.captures i d → t.captures = s.captures) ∧
          (t.plans.active.captures i d →
            t.recorded s.captures told ⟨0, i, d, s.seq.cycle + 1, 0, timing, .start, window, none⟩)) ∧
      (start → cutting → lastOf →
        let told :=
          Notices.raise (if s.plans.commitPending = true then cut.raise (.report (.committed none)) else cut)
            (.report (.halted ⟨cause, s.seq.cycle, s.seq.phase, none⟩))
        ∃ window, (window = met ∨ window = none) ∧
          (¬ s.plans.active.captures i d → t.captures = s.captures) ∧
          (s.plans.active.captures i d →
            t.recorded s.captures told ⟨0, i, d, s.seq.cycle, s.seq.phase, .inCycle, .none, window, none⟩))

/-- RAW_LINE_CHANGE and the tick at a filter (R74, R75): each tick has one sample, which is compared with the candidate before
it: a level other than the filtered one is a candidate of age 0 or ages the one there is, and the filtered level drops it. Its
edge is due when its age reaches the depth in force: the active plan's for an input, 16 for the STOP line. The level stays
until the edge is taken, and its other value is the edge's direction. Once the edge has been taken, no change of the line in
the same tick makes another one due or a candidate before the next tick. That the last level of a tick before its edge is
taken is the sample is the model's choice (entries 28, 40). -/
def Obligations.FiltersAgeACandidate : Prop :=
  ∀ (s : State) (i : Fin 4),
    let f := s.filters.inputs.get i
    let g := s.filters.stop
    let compared (level raw : Wire) (before : Option Nat) : Option Nat :=
      if raw = level then none
      else
        match before with
        | none => some 0
        | some age => some (min 16 (age + 1))
    (∀ level, s.live = true → 1 ≤ s.filters.settle →
      exec (.rawLineChange (.input i) level) s =
        .next
          { s with
            filters :=
              { s.filters with
                inputs :=
                  s.filters.inputs.set i
                    { f with
                      raw := level
                      cand := if f.taken = true then f.cand else compared f.level level f.prior } } } ∧
      exec (.rawLineChange .stop level) s =
        .next
          { s with
            filters :=
              { s.filters with
                stop :=
                  { g with
                    raw := level, cand := if g.taken = true then g.cand else compared g.level level g.prior } } }) ∧
    (∀ (line : Line) (first last : Wire) (t : State), exec (.rawLineChange line first) s = .next t →
      exec (.rawLineChange line last) t = exec (.rawLineChange line last) s) ∧
    (∀ level t, f.taken = true → f.cand = none → s.live = true → 1 ≤ s.filters.settle →
      exec (.rawLineChange (.input i) level) s = .next t →
      (∀ d, t.inputDue i d = false) ∧
        (t.tick.filters.inputs.get i).cand = if level = f.level then none else some 0) ∧
    s.tick.filters.inputs.get i =
      { f with
        depth := (s.plans.active.inputs.get i).depth, cand := compared f.level f.raw f.cand, prior := f.cand,
        taken := false } ∧
    (s.cycleEndDue = false →
      ((s.inputDue i .rise = true ∨ s.inputDue i .fall = true) ↔ ∃ age, f.cand = some age ∧ f.depth ≤ age)) ∧
    (s.cycleEndDue = true → s.inputDue i .rise = false ∧ s.inputDue i .fall = false) ∧
    (s.inputDue i .rise = true → f.level = .low) ∧ (s.inputDue i .fall = true → f.level = .high) ∧
    s.tick.filters.stop =
      { g with depth := 16, cand := compared g.level g.raw g.cand, prior := g.cand, taken := false } ∧
    ((s.stopDue .rise = true ∨ s.stopDue .fall = true) ↔ ∃ age, g.cand = some age ∧ g.depth ≤ age) ∧
    (s.stopDue .rise = true → g.level = .low) ∧ (s.stopDue .fall = true → g.level = .high)

/-- STOP_ASSERTED (R20, R71): every channel goes INACTIVE with no manual pulse, HELD ones included, and a running sequencer
halts with cause STOP_LINE at the phase it reads; in IDLE and HALTED nothing else changes. STOP_RELEASED changes the
filtered line alone. -/
def Obligations.StopLineStopsTheOutputs : Prop :=
  ∀ (s : State) (age : Nat), s.live = true → s.filters.stop.cand = some age → s.filters.stop.depth ≤ age →
    let settled : Filters :=
      { s.filters with
        stop := { s.filters.stop with level := s.filters.stop.raw, cand := none, taken := true } }
    let u : State :=
      { s with
        filters := settled
        channels := s.channels.mapIdx fun _ c => { c with level := .inactive, manual := none } }
    (s.filters.stop.level = .high → s.filters.stop.raw = .low →
      ∃ t, exec .stopAsserted s = .next t ∧ t.stopAsserted = true ∧ LinkKept s t ∧
        (∀ i, (t.channels.get i).level = .inactive ∧ (t.channels.get i).manual = none ∧
          (t.channels.get i).hold = (s.channels.get i).hold) ∧
        (s.seq.mode.running = true → HaltedFrom u t .stopLine s.seq.phase none) ∧
        (s.seq.mode.running = false → t.agrees u)) ∧
    (s.filters.stop.level = .low → s.filters.stop.raw = .high →
      exec .stopReleased s = .next { s with filters := settled })

/-! ## The cycle (chapters 1, 3 and 5) -/

/-- TIMELINE_EDGE (R52 to R57, R60, R62): the edge that is due is taken by the tests of R53 in their order, skipped, gated off,
suppressed or applied, counted, and marked or recorded, as `State.edgeTaken` spells out; nothing else changes. That a mark
and a pulse in progress are known by entry id and occurrence, where a loaded plan repeats an id, is the model's choice
(entry 46). -/
def Obligations.TimelineEdgeIsDecided : Prop :=
  ∀ (s : State) (e : TEdge), s.live = true → s.edgeDue = some e → ∃ t, exec .timelineEdge s = .next t ∧ s.edgeTaken e t

/-- END_OF_CYCLE (R6, R7, R18): the windows that close at the length are closed first. A miss under policy HALT halts with cause
WINDOW_MISS at that close, the first in the table's order, which is kept the order of id (R32);
else a FINISH or the last cycle halts at the length; else an INTERNAL plan starts the next cycle
and a TRIGGERED one waits at the length, with the wait timer started if the starve limit is nonzero. -/
def Obligations.EndOfCycleEndsOrGoesOn : Prop :=
  ∀ s : State, s.live = true → s.seq.mode = .cycling → s.seq.endDue = true →
    let closed := s.closeWindows s.block.length
    let left : State := { closed with monitor := { closed.monitor with inProgress := false } }
    ∃ t, exec .endOfCycle s = .next t ∧ LinkKept s t ∧
      (∀ w rest, s.monitor.haltMisses s.block.length = w :: rest →
        w.closeAt = s.block.length ∧ HaltedFrom closed t .windowMiss w.closeAt (some w.id)) ∧
      (s.monitor.haltMisses s.block.length = [] → s.seq.finish = true →
        HaltedFrom left t .finished s.block.length none) ∧
      (s.monitor.haltMisses s.block.length = [] → s.seq.finish = false → s.seq.remaining = some 0 →
        HaltedFrom left t .countDone s.block.length none) ∧
      (s.monitor.haltMisses s.block.length = [] → s.seq.finish = false → s.seq.remaining ≠ some 0 →
        (s.block.source = .internal → StartedFrom left t) ∧
        (s.block.source = .triggered →
          t.agrees
            { left with
              seq :=
                { s.seq with
                  mode := .waiting, phase := s.block.length, endDue := false,
                  wait := if s.block.starveLimit = 0 then none else some 0 } }))

/-- WINDOW_OPEN (R93): the PENDING window with the id whose open is the present phase is OPEN, and nothing else changes. A close
at a phase (R96): every OPEN window that closes there is MISSED, counted, and told by WINDOW_MISSED, in the table's order;
WINDOW_CLOSE is the close at the present phase, and the first of them under policy HALT halts the sequencer at that close with
the window's id. The table's order is kept the order of id that R96 names (R32). That rows with one id, in a
loaded table, open and settle each for itself is the model's choice (entry 46). While a cycle is in progress an
edge meets every PENDING or OPEN window of its input and direction from its open to before its close (R94), which is MET there
and counted; the abandon stage makes every PENDING or OPEN window ABANDONED and counted, and the cycle is no longer in
progress (R97). -/
def Obligations.WindowsOpenAndClose : Prop :=
  (∀ s : State, s.live = true → s.seq.mode = .cycling → s.monitor.inProgress = true →
    (∀ id, (∃ w ∈ s.monitor.table, w.window.id = id ∧ w.state = .pending ∧ w.window.openAt = s.seq.phase) →
      exec (.windowOpen id) s =
        .next
          { s with
            monitor :=
              { s.monitor with
                table :=
                  s.monitor.table.map fun w =>
                    if w.window.id = id ∧ w.state = .pending ∧ w.window.openAt = s.seq.phase then
                      { w with state := .opened }
                    else w } }) ∧
    ((∃ w ∈ s.monitor.table, w.state = .opened ∧ w.window.closeAt = s.seq.phase) →
        ∃ t, exec .windowClose s = .next t ∧ LinkKept s t ∧
          (s.monitor.haltMisses s.seq.phase = [] → t.agrees (s.closeWindows s.seq.phase)) ∧
          ∀ w rest, s.monitor.haltMisses s.seq.phase = w :: rest →
            HaltedFrom (s.closeWindows s.seq.phase) t .windowMiss s.seq.phase (some w.id))) ∧
  (∀ (s : State) (phase : Nat),
    let closed := s.closeWindows phase
    let closing := s.monitor.table.filter fun w => decide (w.state = .opened ∧ w.window.closeAt = phase)
    closed =
        { s with
          monitor := closed.monitor
          notices := closing.foldl (fun q w => q.raise (.merging (.windowMissed w.window.id) s.seq.cycle)) s.notices } ∧
      closed.monitor.inProgress = s.monitor.inProgress ∧
      closed.monitor.table =
        s.monitor.table.map (fun w =>
          if w.state = .opened ∧ w.window.closeAt = phase then { w with state := .missed } else w) ∧
      s.monitor.haltMisses phase = (closing.filter fun w => decide (w.window.policy = .halt)).map Watch.window ∧
      ((s.monitor.table.map fun w => w.window.id).Nodup → ∀ k : Fin 15,
        closed.monitor.tallies.get k =
          if ∃ w ∈ closing, w.window.id = k.val + 1 then
            { s.monitor.tallies.get k with missed := bump (s.monitor.tallies.get k).missed }
          else s.monitor.tallies.get k)) ∧
  (∀ (m : Monitor) (i : Fin 4) (d : Slope) (phase : Nat),
    let meets (w : Watch) : Bool :=
      decide
        (w.window.input = i ∧ w.window.edge = d ∧ w.window.openAt ≤ phase ∧ phase < w.window.closeAt ∧
          (w.state = .pending ∨ w.state = .opened))
    let unsettled (w : Watch) : Bool := decide (w.state = .pending ∨ w.state = .opened)
    (m.inProgress = false → m.metIds i d phase = [] ∧ m.meet i d phase = m ∧ m.abandon = m) ∧
    (m.inProgress = true →
      m.metIds i d phase = (m.table.filter meets).map (fun w => w.window.id) ∧
      (m.meet i d phase).inProgress = true ∧ m.abandon.inProgress = false ∧
      (m.meet i d phase).table =
        m.table.map (fun w => if meets w = true then { w with state := .met, hit := some phase } else w) ∧
      m.abandon.table = m.table.map (fun w => if unsettled w = true then { w with state := .abandoned } else w) ∧
      ((m.table.map fun w => w.window.id).Nodup → ∀ k : Fin 15,
        (m.meet i d phase).tallies.get k =
            (if ∃ w ∈ m.table, w.window.id = k.val + 1 ∧ meets w = true then
              { m.tallies.get k with met := bump (m.tallies.get k).met }
            else m.tallies.get k) ∧
          m.abandon.tallies.get k =
            if ∃ w ∈ m.table, w.window.id = k.val + 1 ∧ unsettled w = true then
              { m.tallies.get k with cut := bump (m.tallies.get k).cut }
            else m.tallies.get k)))

/-- WAIT_TIMER_EXPIRY (R11): STARVED is raised in the current cycle and the timer stops; under policy HALT the sequencer halts
with cause STARVED and the start input as its subject. That the limit and the policy are read at the expiry, from the active
plan, where R4 has them read on entry into ARMED or WAITING, is the model's reading (entry 32); the timer in ticks is
entry 11's. MANUAL_PULSE_EXPIRY (R67): the channel goes INACTIVE and its pulse ends; nothing else changes. -/
def Obligations.WaitAndManualTimersExpire : Prop :=
  ∀ s : State, s.live = true →
    (∀ n, s.seq.mode = .armed ∨ s.seq.mode = .waiting → s.seq.wait = some n → s.block.starveLimit * 1000 ≤ n →
      let told : State :=
        { s with
          seq := { s.seq with wait := none }, notices := s.notices.raise (.merging .starved s.seq.cycle) }
      ∃ t, exec .waitTimerExpiry s = .next t ∧ LinkKept s t ∧ (s.block.starvePolicy = .notify → t.agrees told) ∧
        (s.block.starvePolicy = .halt →
          HaltedFrom told t .starved s.seq.phase (some s.block.startInput.val))) ∧
    (∀ i : Fin 8, (s.channels.get i).manual = some 0 →
      exec (.manualPulseExpiry i) s =
        .next
          { s with channels := s.channels.set i { s.channels.get i with level := .inactive, manual := none } })

/-! ## The media, start-up and resets (chapters 6 and 7) -/

/-- PROGRAM_STEP_END and ERASE_END without faults (R100, R105, R106): the programmed bytes are ANDed into the media, or the bank
is all ones, and no other byte changes; the step's effects take place and the next step is under way; behind the last step
of an operation the store is READY, or READ_ONLY where wear blocked an erase, and STORE_DONE is raised. -/
def Obligations.MediaStepsEndAndAreVerified : Prop :=
  ∀ (s : State) (job : Job) (step : MediaStep) (rest : List MediaStep), s.live = true → s.mediaOk →
    s.store.job = some job → job.steps = step :: rest →
    let started : Store := { s.store with job := some { job with steps := rest } }
    let after := step.effects.foldl StoreEffect.apply started
    ∀ c : Instr,
      ((∃ bank offset data, step.act = .program bank offset data ∧ offset + data.length ≤ 16384 ∧
          c = .programStepEnd []) ∨
        ∃ bank, step.act = .erase bank ∧ c = .eraseEnd []) →
      ∃ t, exec c s = .next t ∧ LinkKept s t ∧ t.seq = s.seq ∧ t.plans = s.plans ∧ t.timeline = s.timeline ∧
        t.channels = s.channels ∧ t.filters = s.filters ∧ t.captures = s.captures ∧ t.monitor = s.monitor ∧
        t.startup = s.startup ∧
        (∀ bank offset data, step.act = .program bank offset data → ∀ a,
          t.media.read a =
            if bank.base + offset ≤ a ∧ a < bank.base + offset + data.length then
              s.media.read a &&& data.getD (a - (bank.base + offset)) 0xFF#8
            else s.media.read a) ∧
        (∀ bank, step.act = .erase bank → ∀ a,
          t.media.read a = if bank.base ≤ a ∧ a < bank.base + 16384 then 0xFF#8 else s.media.read a) ∧
        ((rest ≠ [] ∨ ∀ o, job.kind ≠ .op o) → t.store = after ∧ t.notices.like s.notices) ∧
        (∀ o, rest = [] → job.kind = .op o →
          t.store = { after with status := if job.worn = true then .readOnly else .ready, job := none } ∧
            t.notices.like
              (s.notices.raise (.report (.storeDone o .done ((after.job.map Job.compacted).getD false)))))

/-- A program step whose row reads back other than programmed, or an erase whose bank does not read all ones (R100, R113, R121):
a writing operation ends as VERIFY_FAILED, the store is READ_ONLY, and no later step is taken; the scan makes no further step.
The directory stays as it was. Whatever the faults, a program step makes no bit one that was zero, so that a state byte only
moves forward (R100, R102; which cells differ is an operand, entry 9). What a program step past its bank's end does is the model's own choice (entry 10): the fault
`mediaOutside`. -/
def Obligations.VerifyFailureEndsTheWork : Prop :=
  ∀ (s : State) (job : Job) (step : MediaStep) (rest : List MediaStep), s.live = true → s.mediaOk →
    s.store.job = some job → job.steps = step :: rest →
    (∀ (c : Instr) (a : Nat) (v left : Byte),
      (∃ (bank : Bank) (offset : Nat) (data : List Byte), step.act = .program bank offset data ∧
          offset + data.length ≤ 16384 ∧ bank.base + offset ≤ a ∧ a < bank.base + offset + data.length ∧
          left = s.media.read a &&& v ∧ left ≠ s.media.read a &&& data.getD (a - (bank.base + offset)) 0xFF#8 ∧
          c = .programStepEnd [(a, v)]) ∨
        (∃ bank : Bank, step.act = .erase bank ∧ bank.base ≤ a ∧ a < bank.base + 16384 ∧ left = v ∧ v ≠ 0xFF#8 ∧
          c = .eraseEnd [(a, v)]) →
      ∃ t, exec c s = .next t ∧ t.media.read a = left ∧ LinkKept s t ∧ t.seq = s.seq ∧ t.plans = s.plans ∧
        t.timeline = s.timeline ∧ t.channels = s.channels ∧ t.filters = s.filters ∧ t.captures = s.captures ∧
        t.monitor = s.monitor ∧ t.startup = s.startup ∧
        (∀ o, job.kind = .op o →
          t.store = { s.store with status := .readOnly, job := none } ∧
            t.notices.like (s.notices.raise (.report (.storeDone o .verifyFailed job.compacted)))) ∧
        ((∀ o, job.kind ≠ .op o) →
          t.store = { s.store with job := some { job with steps := [], failed := true } } ∧
            t.notices.like s.notices)) ∧
    (∀ faults bank offset data, step.act = .program bank offset data → offset + data.length ≤ 16384 →
      ∃ t, exec (.programStepEnd faults) s = .next t ∧ ∀ a,
        t.media.read a &&& s.media.read a = t.media.read a ∧
          (¬ (bank.base + offset ≤ a ∧ a < bank.base + offset + data.length) → t.media.read a = s.media.read a)) ∧
    (∀ faults bank offset data, step.act = .program bank offset data → 16384 < offset + data.length →
      exec (.programStepEnd faults) s = .fault .mediaOutside)

/-- RESET_END (R126, R127, R134): the straps select the link rate, the scan of the media begins, and the stage is SCANNING;
nothing else changes. What the scan does (R101, R112, R114, R119 to R121, R175): it uses the one bank that is CURRENT, of two the
one with the higher sequence, and formats the store with none; it erases the other bank unless it is FRESH or BLANK or wear
blocks it; it walks the records of the used bank, marks DEAD every one that is neither DEAD already nor in force, counts as
corrupt the LIVE ones that are bad, and builds the directory from those in force. Which of equals it keeps, where the walk ends
with less than a header's room, that each erase of a formatting scan counts as a repair, and how a header with a good check
and state bits that read BLANK is met are the model's readings (entries 18 to 20); that a boot selection is read from the
bytes 32 and 33 of its record whatever its body length is the model's choice (entry 41), and so it is that its header is
taken whatever its slot byte (entry 47), and that a profile's name is the bytes before the first 0xFF, unchecked (entry 49). -/
def Obligations.ResetEndStartsTheScan : Prop :=
  (∀ (s : State) (rate1 rate0 : Wire), s.startup.powered = true → s.startup.stage = .inReset →
    exec (.resetEnd rate1 rate0) s =
      .next
        { s with
          link :=
            { s.link with
              rate :=
                if rate1 = .low then (if rate0 = .low then .r115200 else .r460800)
                else if rate0 = .low then .r921600 else .r1843200 }
          store :=
            { status := .starting, dir := ⟨Row.fill 8 none, none, none, 1, 0, 0⟩, job := some s.media.scanJob,
              countA := s.media.takenCount .a, countB := s.media.takenCount .b }
          startup := { s.startup with stage := .scanning } }) ∧
  (∀ (m : Media) (bank : Bank),
    let blank : Prop := ∀ b ∈ m.slice bank 0 32, b = 0xFF#8
    let checks : Prop := (crc16 (m.slice bank 5 4)).toNat = fromBe (m.slice bank 9 2)
    let state := m.read bank.base
    (blank → m.bankState bank = some .blank) ∧ (¬ blank → ¬ checks → m.bankState bank = none) ∧
    (¬ blank → checks →
      (state.getLsbD 0 = true → m.bankState bank = some .blank) ∧
      (state.getLsbD 0 = false → state.getLsbD 1 = true → m.bankState bank = some .fresh) ∧
      (state.getLsbD 0 = false → state.getLsbD 1 = false → state.getLsbD 2 = true →
        m.bankState bank = some .opening) ∧
      (state.getLsbD 0 = false → state.getLsbD 1 = false → state.getLsbD 2 = false →
        (state.getLsbD 3 = true → m.bankState bank = some .current) ∧
        (state.getLsbD 3 = false → m.bankState bank = some .retired))) ∧
    let reads (x : Bank) : Prop := m.bankState x ≠ none ∧ m.bankState x ≠ some .blank
    (reads bank → m.takenCount bank = fromBe (m.slice bank 5 4)) ∧
    (¬ reads bank → reads bank.other → m.takenCount bank = fromBe (m.slice bank.other 5 4)) ∧
    (¬ reads bank → ¬ reads bank.other → m.takenCount bank = 0)) ∧
  (∀ m : Media,
    let blocked : Prop := 50000 ≤ m.takenCount .a ∨ 50000 ≤ m.takenCount .b
    (m.bankState .a ≠ some .current → m.bankState .b ≠ some .current →
      (blocked →
        m.scanJob = ⟨.scan ⟨Row.fill 8 none, none, none, 1, 0, 0⟩ 0 true, [], false, true, false, 0⟩) ∧
      (¬ blocked →
        m.scanJob =
          ⟨.scan ⟨Row.fill 8 none, none, some .a, 1, 16352, 0⟩ 0 true, formatSteps m [.repaired] [], false, false, false,
            0⟩)) ∧
    (∀ bank : Bank, m.bankState bank = some .current →
      (m.bankState bank.other = some .current →
        fromBe (m.slice bank.other 1 4) < fromBe (m.slice bank 1 4) ∨
          fromBe (m.slice bank.other 1 4) = fromBe (m.slice bank 1 4) ∧ bank = .a) →
      ∃ (rs : List Walked) (stop corrupt : Nat) (d : Directory) (others : List MediaStep) (worn : Bool) (killed : List Nat),
        m.walks bank rs 32 stop ∧ d.builtFrom m bank rs stop ∧
        corrupt =
          (rs.filter fun r => decide (m.stateOf bank r = .live) && !m.isGood bank r).length ∧
        killed.Nodup ∧
        (∀ o, o ∈ killed ↔ ∃ r ∈ rs, r.offset = o ∧ m.stateOf bank r ≠ .dead ∧ m.wins bank rs r = false) ∧
        m.scanJob =
          ⟨.scan d corrupt false,
            others ++ killed.map (fun o => ⟨.program bank o [0x7F#8], false, [.repaired]⟩), false, worn, false, 0⟩ ∧
        (m.bankState bank.other = some .fresh → others = [] ∧ worn = false) ∧
        (m.bankState bank.other = some .blank →
          others =
              [⟨.program bank.other 0 (freshBytes (m.takenCount bank)), false,
                [.freshCounted bank.other (m.takenCount bank)]⟩] ∧
            worn = false) ∧
        (m.bankState bank.other ≠ some .fresh → m.bankState bank.other ≠ some .blank →
          (50000 ≤ m.takenCount bank.other → others = [] ∧ worn = true) ∧
          (m.takenCount bank.other < 50000 →
            others =
                [⟨.erase bank.other, false, [.repaired]⟩,
                 ⟨.program bank.other 0 (freshBytes (m.takenCount bank.other + 1)), false,
                  [.freshCounted bank.other (m.takenCount bank.other + 1)]⟩] ∧
              worn = false))))

/-- STORE_SCAN_END (R119, R121, R127 to R129, R50, R64): with no step left the store takes the directory the scan built, or the
empty one when a format was blocked or failed; it is READ_ONLY after a verify failure or a wear block, else READY, and the
report carries the scan's counts. The boot selection's profile, if it reads and passes the commit checks, becomes both plans;
the boot result says what became of it; the channels take the active plan's block. That stages 6 and 7 follow in the same
step when the STOP filter has settled, and in a later one when not, is the model's reading of R130 (entry 22). -/
def Obligations.ScanEndBootsTheSelectedProfile : Prop :=
  ∀ (s : State) (j : Job) (found : Directory) (corrupt : Nat) (formatting : Bool), s.live = true →
    s.startup.stage = .scanning → s.store.job = some j → j.kind = .scan found corrupt formatting → j.steps = [] →
    let bad := j.failed || j.worn
    let dir : Directory := if (formatting && bad) = true then ⟨Row.fill 8 none, none, none, 1, 0, 0⟩ else found
    let report : ScanReport := ⟨bad, min 65535 j.repairs, min 65535 corrupt, formatting && !bad⟩
    ∃ u : State,
      exec .storeScanEnd s = .next (if s.stopSettled = true then u.runStage else u) ∧
      u.store = { s.store with status := if bad = true then .readOnly else .ready, dir := dir, job := none } ∧
      u.startup.stage = .booting ∧ u.startup.scan = report ∧ u.startup.cause = s.startup.cause ∧
      (∀ i, u.channels.get i =
        ⟨(u.plans.active.channels.get i).sense, (u.plans.active.channels.get i).use, .inactive,
          if (u.plans.active.channels.get i).use = .used then .driven else .highZ, .free, none⟩) ∧
      u.seq = s.seq ∧ u.filters = s.filters ∧ u.captures = s.captures ∧ u.media = s.media ∧ u.notices = s.notices ∧
      u.link = s.link ∧ u.session = s.session ∧ u.pending = s.pending ∧
      ((∀ b, dir.boot = some b → b.selected = none) →
        u.startup.bootSlot = none ∧ u.startup.bootResult = .noSelection ∧ u.startup.autoRun = false) ∧
      (u.startup.bootResult ≠ .loaded → u.plans = s.plans ∧ u.timeline = s.timeline ∧ u.monitor = s.monitor) ∧
      (∀ b slot, dir.boot = some b → b.selected = some slot →
        u.startup.bootSlot = some slot ∧ u.startup.autoRun = b.autoRun ∧
        (dir.slots.get slot = none → u.startup.bootResult = .emptySlot) ∧
        (∀ bank e, dir.bank = some bank → dir.slots.get slot = some e →
          let body := s.media.slice bank (e.offset + 32) e.bodyLength
          let stored := fromBe (s.media.slice bank (e.offset + 21) 4)
          ((crc32 body).toNat ≠ stored ∨ Plan.ofBytes body = none → u.startup.bootResult = .recordBad) ∧
          (∀ p, (crc32 body).toNat = stored → Plan.ofBytes body = some p →
            (p.failure ≠ none → u.startup.bootResult = .planInvalid) ∧
            (p.failure = none →
              u.startup.bootResult = .loaded ∧
                u.plans = { s.plans with staged := p, active := p, stagedTimeline := p.expand } ∧
                u.timeline = { s.timeline with edges := p.expand, next := 0, marks := [] } ∧
                u.monitor = { s.monitor with table := p.windows.map fun w => ⟨w, .pending, none⟩ }))))

/-- Stages 6 and 7 (R130, R131): the auto-run result by its tests in their order; STARTED is a RUN with count 0; start-up is
COMPLETE and STARTUP_REPORT raised. -/
def Obligations.AutoRunStageFollowsItsTests : Prop :=
  ∀ s : State, s.pending = [] → s.live = true → s.dueAll = [.runStage] →
    ∃ t, step s = .next t ∧ t.startup = { s.startup with stage := .complete, autoResult := t.startup.autoResult } ∧
      (s.startup.autoRun = false → t.startup.autoResult = .off) ∧
      (s.startup.autoRun = true → s.startup.bootResult ≠ .loaded → t.startup.autoResult = .notBooted) ∧
      (s.startup.autoRun = true → s.startup.bootResult = .loaded → s.stopAsserted = true →
        t.startup.autoResult = .inhibited) ∧
      (s.startup.autoRun = true → s.startup.bootResult = .loaded → s.stopAsserted = false →
        t.startup.autoResult = if s.plans.active.hasWork = true then .started else .planEmpty) ∧
      let report : Occurrence :=
        .report (.startup s.startup.cause s.startup.scan s.startup.bootSlot s.startup.bootResult t.startup.autoResult)
      (t.startup.autoResult ≠ .started →
        t.notices.like (s.notices.raise report) ∧ t.seq = s.seq ∧ t.plans = s.plans ∧ t.timeline = s.timeline ∧ t.channels = s.channels ∧
          t.monitor = s.monitor) ∧
      (t.startup.autoResult = .started → s.block.source = .internal →
        ∃ u, StartedFrom { s with seq := s.seq.ranFor 0 } u ∧ t.seq = u.seq ∧ t.plans = u.plans ∧
          t.timeline = u.timeline ∧ t.channels = u.channels ∧ t.monitor = u.monitor ∧
          t.notices.like (u.notices.raise report)) ∧
      (t.startup.autoResult = .started → s.block.source = .triggered →
        t.notices.like (s.notices.raise report) ∧
        t.seq =
          { s.seq.ranFor 0 with
            mode := .armed, phase := 0, endDue := false,
            wait := if s.block.starveLimit = 0 then none else some 0 })

/-- POWER_UP, RESET_LINE and POWER_LOSS (R100, R112, R123): every block is in its reset state with the cause of the reset, and the
lines stand as they stand. The media are kept but for a step cut off: of a program step's row, the bits the command lists
keep their old value and the others are programmed; an erase leaves the bank as it was, or partly erased with a header that
the scan answers by erasing it, never CURRENT, or all ones (entry 9). RESET_LINE needs power; POWER_LOSS leaves the part
without it (entry 24). -/
def Obligations.ResetsKeepTheMediaAlone : Prop :=
  (∀ (s : State) (torn : List Host.Cell),
    let after (cause : ResetCause) (powered : Bool) : State :=
      { State.reset with
        media := s.tornMedia torn
        filters :=
          { inputs := s.filters.inputs.mapIdx fun _ f => ⟨f.raw, .low, none, 0, none, false⟩
            stop := ⟨s.filters.stop.raw, .high, none, 16, none, false⟩, settle := 0 }
        startup := { State.reset.startup with cause := cause, powered := powered }
        choices := s.choices, pending := s.pending }
    exec (.powerUp torn) s = .next (after .power true) ∧
    (s.startup.powered = true → exec (.resetLine torn) s = .next (after .resetLine true)) ∧
    (s.startup.powered = true → exec (.powerLoss torn) s = .next (after .power false)) ∧
    (s.startup.powered = false → exec (.resetLine torn) s = .next s ∧ exec (.powerLoss torn) s = .next s)) ∧
  (∀ (s : State) (torn : List Host.Cell), (∀ j, s.store.job = some j → j.steps = []) → s.tornMedia torn = s.media) ∧
  (∀ (s : State) (torn : List Host.Cell) (j : Job) (step : MediaStep) (rest : List MediaStep), s.mediaOk →
    s.store.job = some j → j.steps = step :: rest →
    let left := s.tornMedia torn
    let kept (a : Nat) : Byte := (torn.lookup a).getD 0#8
    left.wf = true ∧
    (∀ bank offset data, step.act = .program bank offset data → offset + data.length ≤ 16384 → ∀ a,
      left.read a =
        if bank.base + offset ≤ a ∧ a < bank.base + offset + data.length then
          s.media.read a &&& (data.getD (a - (bank.base + offset)) 0xFF#8 ||| kept a)
        else s.media.read a) ∧
    (∀ bank, step.act = .erase bank →
      (∀ a, ¬ (bank.base ≤ a ∧ a < bank.base + 16384) → left.read a = s.media.read a) ∧
      (left = s.media ∨
        (∀ a, bank.base ≤ a → a < bank.base + 16384 → left.read a = s.media.read a ||| ~~~ kept a) ∧
            (left.bankState bank = none ∨ left.bankState bank = some .opening ∨ left.bankState bank = some .retired) ∨
          ∀ a, bank.base ≤ a → a < bank.base + 16384 → left.read a = 0xFF#8)))

/-- The values after a reset that R3, R23, R24, R51, R61, R73, R81, R92, R104, R135, R146 and R159 give, block by block, and
every invariant below. The lines' own levels (raw, `State.reset` with none connected) are no part of it. -/
def Obligations.ResetValues : Prop :=
  State.reset.seq.mode = .idle ∧ State.reset.seq.phase = 0 ∧ State.reset.seq.cycle = 0 ∧
  State.reset.seq.remaining = none ∧ State.reset.seq.finish = false ∧ State.reset.seq.halt = none ∧
  State.reset.seq.wait = none ∧
  State.reset.plans = ⟨Plan.empty, Plan.empty, [], false, .none⟩ ∧
  Plan.empty.cycle = ⟨.internal, 10000, 0, 0, .none, 0, .notify⟩ ∧
  (∀ i, Plan.empty.channels.get i = ⟨.activeHigh, .unused⟩) ∧ (∀ i, Plan.empty.inputs.get i = ⟨0, .none⟩) ∧
  Plan.empty.entries = [] ∧ Plan.empty.windows = [] ∧
  State.reset.timeline.edges = [] ∧ State.reset.timeline.next = 0 ∧ State.reset.timeline.marks = [] ∧
  (∀ i, State.reset.timeline.pulses.get i = none ∧ State.reset.timeline.tallies.get i = ⟨0, 0, 0, 0⟩) ∧
  (∀ i, State.reset.channels.get i = ⟨.activeHigh, .unused, .inactive, .highZ, .free, none⟩) ∧
  (∀ i, (State.reset.filters.inputs.get i).level = .low ∧ (State.reset.filters.inputs.get i).cand = none ∧
    (State.reset.filters.inputs.get i).depth = 0) ∧
  State.reset.filters.stop.level = .high ∧ State.reset.filters.stop.cand = none ∧ State.reset.filters.stop.depth = 16 ∧
  State.reset.captures.records = [] ∧ State.reset.captures.nextSeq = 0 ∧ State.reset.captures.watermark = 32 ∧
  State.reset.captures.armed = true ∧
  (∀ i, State.reset.captures.loss.get i = 0 ∧ State.reset.captures.tallies.get i = ⟨0, 0, 0⟩) ∧
  State.reset.monitor.table = [] ∧ State.reset.monitor.inProgress = false ∧
  (∀ i, State.reset.monitor.tallies.get i = ⟨0, 0, 0⟩) ∧
  State.reset.store.status = .starting ∧ State.reset.store.job = none ∧ State.reset.startup.stage = .inReset ∧
  State.reset.notices = ⟨[], 1, 250⟩ ∧
  State.reset.link.asm = ⟨.searching, [], none, none⟩ ∧ State.reset.link.waiting = none ∧
  State.reset.link.outbox = [] ∧ State.reset.link.tx = .idle ∧
  State.reset.link.counters = ⟨0, 0, 0, 0, 0, 0, 0, 0, 0, 0⟩ ∧
  State.reset.session = ⟨false, 250, 0, .notify, none, .taking, []⟩ ∧
  State.reset.mediaOk ∧ State.reset.seqOk ∧ State.reset.plansOk ∧ State.reset.rangesOk ∧ State.reset.driveOk ∧
  State.reset.stopSafe ∧ State.reset.captures.ok ∧ State.reset.notices.ok ∧ State.reset.repliesOk ∧
  State.reset.storeOk

/-! ## The whole machine -/

/-- What only some commands do: the media change only by the end of a media step and by resets; a session is opened only by
HELLO; the sequencer comes back to IDLE only by a reset (R3); the cycle number changes only by RUN, an input edge, the end of
a cycle, the scan's end, or a reset (R2). A step that finds no command waiting never changes the media and never comes back
to IDLE; it opens a session only by taking a waiting HELLO, and changes the cycle number only by taking a waiting RUN, a due
input edge or end of a cycle, or start-up's stages 6 and 7 (R130; a step of their own by entry 22). -/
def Obligations.OnlyTheirCommandsDoIt : Prop :=
  (∀ (c : Instr) (s t : State), exec c s = .next t →
    (t.media ≠ s.media →
      (∃ f, c = .programStepEnd f) ∨ (∃ f, c = .eraseEnd f) ∨ (∃ f, c = .powerUp f) ∨ (∃ f, c = .resetLine f) ∨
        (∃ f, c = .powerLoss f) ∨ (c = .transmitFrameEnd ∧ t.startup.cause = .restart)) ∧
    (s.session.isOpen = false → t.session.isOpen = true → ∃ q, c = .hello q) ∧
    (s.seq.mode ≠ .idle → t.seq.mode = .idle → t.startup.stage = .inReset) ∧
    (t.seq.cycle ≠ s.seq.cycle → t.startup.stage ≠ .inReset →
      (∃ q, c = .run q) ∨ (∃ i d, c = .inputEdge i d) ∨ c = .endOfCycle ∨ c = .storeScanEnd)) ∧
  (∀ s t : State, s.pending = [] → step s = .next t →
    let takes (code : Byte) : Prop := ∃ f, .takeFrame f ∈ s.dueAll ∧ f.body[0]? ≠ some 0x04#8 ∧ f.body[2]? = some code
    t.media = s.media ∧ (s.session.isOpen = false → t.session.isOpen = true → takes 34) ∧
    (s.seq.mode ≠ .idle → t.seq.mode ≠ .idle) ∧
    (t.seq.cycle ≠ s.seq.cycle →
      takes 1 ∨ (∃ i d, .command (.inputEdge i d) ∈ s.dueAll) ∨ .command .endOfCycle ∈ s.dueAll ∨
        .runStage ∈ s.dueAll))

/-- The media keep the model's canonical form, one list of the cells that are not erased, by rising address in the two banks'
16,384 bytes each: the model's choice of form (entry 10) for the memory of 06 section 6.1. -/
def Obligations.EveryStepKeepsTheMediaForm : Prop :=
  ∀ s t : State, s.mediaOk → step s = .next t → t.mediaOk

/-- The sequencer's phase, halt record and pending commit stay as R1, R16, R46 and R125 give them. -/
def Obligations.EveryStepKeepsTheSequencer : Prop :=
  ∀ s t : State, s.seqOk → step s = .next t → t.seqOk

/-- The active plan has passed the commit checks and the blocks work by its parts (R40, R45, R47, R50), and both plans stay in
the ranges of R26 to R32, with their windows in order of id (R32). -/
def Obligations.EveryStepKeepsThePlans : Prop :=
  (∀ s t : State, s.plansOk → step s = .next t → t.plansOk) ∧
  ∀ s t : State, s.rangesOk → step s = .next t → t.rangesOk

/-- A channel is DRIVEN when HELD or USED and HIGH_Z otherwise (R61), and while the STOP line is asserted no channel is ACTIVE
and the sequencer does not run (R21, R62, R71, R72). -/
def Obligations.EveryStepKeepsTheOutputsSafe : Prop :=
  (∀ s t : State, s.driveOk → step s = .next t → t.driveOk) ∧
  ∀ s t : State, s.stopSafe → step s = .next t → t.stopSafe

/-- The capture queue's sequences, length and watermark (R82, R85, R86), the outbox and the reply cache (R141, R151), and the
store's state (R104, R106) stay as their rules give them. -/
def Obligations.EveryStepKeepsTheQueuesAndTheStore : Prop :=
  (∀ s t : State, s.captures.ok → step s = .next t → t.captures.ok) ∧
  (∀ s t : State, s.repliesOk → step s = .next t → t.repliesOk) ∧
  ∀ s t : State, s.storeOk → step s = .next t → t.storeOk

/-- The notice queue keeps at most 16 ordinary entries and one NOTICE_LOSS, with distinct numbers from 1 to 65,535 and at most
one entry of a merging kind and subject (R159 to R163). -/
def Obligations.EveryStepKeepsTheNoticeQueue : Prop :=
  ∀ s t : State, s.notices.ok → step s = .next t → t.notices.ok

/-- A plan in the ranges of R26 to R32, its windows in order of id and its start edge set, is read back from its profile body as it was (R174, R175), and the
body has at most 1,168 bytes. Every body that is read is such a plan's body, byte for byte but for the bits of the channel and
input bytes that stand for no field (entry 17) and for its window records, which the plan holds in order of id, those with one
id as they stood; so a body is refused whose format is not 1, whose bytes 27 to 63 are not all
0xFF, whose length its counts do not give, or that holds a value out of its edit request's range, as the fields of the fixed
part and the lengths here show (R175). That a start edge of NONE is such a value is the model's reading (entry 16), and that
a body with window records out of order or with repeated ids is read its choice (entry 39). -/
def Obligations.PlanSerializesAndReadsBack : Prop :=
  (∀ p : Plan, p.inRange → p.cycle.startEdge ≠ .none →
    Plan.ofBytes p.bytes = some p ∧ p.bytes.length ≤ 1168 ∧
    (∀ more, more ≠ [] → Plan.ofBytes (p.bytes ++ more) = none) ∧
    ∀ n, n < p.bytes.length → Plan.ofBytes (p.bytes.take n) = none) ∧
  (∀ (body : List Byte) (p : Plan), Plan.ofBytes body = some p →
    p.inRange ∧ p.cycle.startEdge ≠ .none ∧
    ∃ stored : List Window,
      let q : Plan := { p with windows := stored }
      (∀ id, (p.windows.filter fun w => decide (w.id = id)) = stored.filter fun w => decide (w.id = id)) ∧
      (∀ k, k < 13 ∨ 25 ≤ k → body[k]? = q.bytes[k]?) ∧
      ∀ k, 13 ≤ k → k < 25 →
        ∃ b, body[k]? = some b ∧ q.bytes[k]? = some (b &&& if k < 21 then 0x03#8 else 0x3F#8)) ∧
  ∀ body : List Byte,
    let byte (k : Nat) : Nat := (body.getD k 0#8).toNat
    (byte 0 ≠ 1 ∨ (∃ k, 27 ≤ k ∧ k ≤ 63 ∧ byte k ≠ 255) ∨ 64 < byte 25 ∨ 8 < byte 26 ∨ 1 < byte 1 ∨
        fromBe ((body.drop 2).take 3) < 100 ∨ 3 < byte 8 ∨ 1 < byte 9 ∨ 1 < byte 12) →
      Plan.ofBytes body = none
end

