-- ==== Sys2Proof/Laws/State.lean ====
section
/-! SUPPORT. What each shared operation over State leaves as it was: one lemma for each operation, one clause for each
part of State. -/

namespace Sys2Proof.Machine

/-- What every step of a fold keeps, the fold keeps. -/
theorem foldl_keeps {σ α β : Type} (g : σ → β) (f : σ → α → σ) (h : ∀ s a, g (f s a) = g s) (l : List α) (s : σ) :
    g (l.foldl f s) = g s := by
  induction l generalizing s with
  | nil => rfl
  | cons a l ih => rw [List.foldl_cons, ih, h]

@[simp] theorem State.raise_keeps (s : State) (o : Occurrence) :
    (s.raise o).seq = s.seq ∧ (s.raise o).plans = s.plans ∧ (s.raise o).timeline = s.timeline ∧
    (s.raise o).channels = s.channels ∧ (s.raise o).filters = s.filters ∧ (s.raise o).captures = s.captures ∧
    (s.raise o).monitor = s.monitor ∧ (s.raise o).media = s.media ∧ (s.raise o).store = s.store ∧
    (s.raise o).startup = s.startup ∧ (s.raise o).link = s.link ∧ (s.raise o).session = s.session ∧
    (s.raise o).choices = s.choices ∧ (s.raise o).pending = s.pending := ⟨rfl, rfl, rfl, rfl, rfl, rfl, rfl, rfl, rfl, rfl, rfl, rfl, rfl, rfl⟩

@[simp] theorem State.onChannel_keeps (s : State) (c : Fin 8) (f : Channel → Channel) :
    (s.onChannel c f).seq = s.seq ∧ (s.onChannel c f).plans = s.plans ∧ (s.onChannel c f).timeline = s.timeline ∧
    (s.onChannel c f).filters = s.filters ∧ (s.onChannel c f).captures = s.captures ∧
    (s.onChannel c f).monitor = s.monitor ∧ (s.onChannel c f).media = s.media ∧ (s.onChannel c f).store = s.store ∧
    (s.onChannel c f).startup = s.startup ∧ (s.onChannel c f).notices = s.notices ∧ (s.onChannel c f).link = s.link ∧
    (s.onChannel c f).session = s.session ∧ (s.onChannel c f).choices = s.choices ∧
    (s.onChannel c f).pending = s.pending := ⟨rfl, rfl, rfl, rfl, rfl, rfl, rfl, rfl, rfl, rfl, rfl, rfl, rfl, rfl⟩

@[simp] theorem State.onChannels_keeps (s : State) (f : Channel → Channel) :
    (s.onChannels f).seq = s.seq ∧ (s.onChannels f).plans = s.plans ∧ (s.onChannels f).timeline = s.timeline ∧
    (s.onChannels f).filters = s.filters ∧ (s.onChannels f).captures = s.captures ∧
    (s.onChannels f).monitor = s.monitor ∧ (s.onChannels f).media = s.media ∧ (s.onChannels f).store = s.store ∧
    (s.onChannels f).startup = s.startup ∧ (s.onChannels f).notices = s.notices ∧ (s.onChannels f).link = s.link ∧
    (s.onChannels f).session = s.session ∧ (s.onChannels f).choices = s.choices ∧
    (s.onChannels f).pending = s.pending := ⟨rfl, rfl, rfl, rfl, rfl, rfl, rfl, rfl, rfl, rfl, rfl, rfl, rfl, rfl⟩

@[simp] theorem State.claim_keeps (s : State) (c : Fin 8) (ch : Change) :
    (s.claim c ch).seq = s.seq ∧ (s.claim c ch).plans = s.plans ∧ (s.claim c ch).timeline = s.timeline ∧
    (s.claim c ch).filters = s.filters ∧ (s.claim c ch).captures = s.captures ∧ (s.claim c ch).monitor = s.monitor ∧
    (s.claim c ch).media = s.media ∧ (s.claim c ch).store = s.store ∧ (s.claim c ch).startup = s.startup ∧
    (s.claim c ch).notices = s.notices ∧ (s.claim c ch).link = s.link ∧ (s.claim c ch).session = s.session ∧
    (s.claim c ch).choices = s.choices ∧ (s.claim c ch).pending = s.pending := ⟨rfl, rfl, rfl, rfl, rfl, rfl, rfl, rfl, rfl, rfl, rfl, rfl, rfl, rfl⟩

@[simp] theorem State.takeChannelBlock_keeps (s : State) (p : Plan) :
    (s.takeChannelBlock p).seq = s.seq ∧ (s.takeChannelBlock p).plans = s.plans ∧
    (s.takeChannelBlock p).timeline = s.timeline ∧ (s.takeChannelBlock p).filters = s.filters ∧
    (s.takeChannelBlock p).captures = s.captures ∧ (s.takeChannelBlock p).monitor = s.monitor ∧
    (s.takeChannelBlock p).media = s.media ∧ (s.takeChannelBlock p).store = s.store ∧
    (s.takeChannelBlock p).startup = s.startup ∧ (s.takeChannelBlock p).notices = s.notices ∧
    (s.takeChannelBlock p).link = s.link ∧ (s.takeChannelBlock p).session = s.session ∧
    (s.takeChannelBlock p).choices = s.choices ∧ (s.takeChannelBlock p).pending = s.pending := ⟨rfl, rfl, rfl, rfl, rfl, rfl, rfl, rfl, rfl, rfl, rfl, rfl, rfl, rfl⟩

@[simp] theorem State.applyChannelBlock_keeps (s : State) :
    (s.applyChannelBlock).seq = s.seq ∧ (s.applyChannelBlock).plans = s.plans ∧
    (s.applyChannelBlock).timeline = s.timeline ∧ (s.applyChannelBlock).filters = s.filters ∧
    (s.applyChannelBlock).captures = s.captures ∧ (s.applyChannelBlock).monitor = s.monitor ∧
    (s.applyChannelBlock).media = s.media ∧ (s.applyChannelBlock).store = s.store ∧
    (s.applyChannelBlock).startup = s.startup ∧ (s.applyChannelBlock).notices = s.notices ∧
    (s.applyChannelBlock).link = s.link ∧ (s.applyChannelBlock).session = s.session ∧
    (s.applyChannelBlock).choices = s.choices ∧ (s.applyChannelBlock).pending = s.pending := ⟨rfl, rfl, rfl, rfl, rfl, rfl, rfl, rfl, rfl, rfl, rfl, rfl, rfl, rfl⟩

@[simp] theorem State.takeEdge_keeps (s : State) (e : TEdge) :
    (s.takeEdge e).seq = s.seq ∧ (s.takeEdge e).plans = s.plans ∧ (s.takeEdge e).filters = s.filters ∧
    (s.takeEdge e).captures = s.captures ∧ (s.takeEdge e).monitor = s.monitor ∧ (s.takeEdge e).media = s.media ∧
    (s.takeEdge e).store = s.store ∧ (s.takeEdge e).startup = s.startup ∧ (s.takeEdge e).notices = s.notices ∧
    (s.takeEdge e).link = s.link ∧ (s.takeEdge e).session = s.session ∧ (s.takeEdge e).choices = s.choices ∧
    (s.takeEdge e).pending = s.pending := by
  simp only [State.takeEdge]
  split <;> simp

@[simp] theorem State.takeEdgesHere_keeps (s : State) :
    (s.takeEdgesHere).seq = s.seq ∧ (s.takeEdgesHere).plans = s.plans ∧ (s.takeEdgesHere).filters = s.filters ∧
    (s.takeEdgesHere).captures = s.captures ∧ (s.takeEdgesHere).monitor = s.monitor ∧
    (s.takeEdgesHere).media = s.media ∧ (s.takeEdgesHere).store = s.store ∧ (s.takeEdgesHere).startup = s.startup ∧
    (s.takeEdgesHere).notices = s.notices ∧ (s.takeEdgesHere).link = s.link ∧ (s.takeEdgesHere).session = s.session ∧
    (s.takeEdgesHere).choices = s.choices ∧ (s.takeEdgesHere).pending = s.pending := by
  refine ⟨?_, ?_, ?_, ?_, ?_, ?_, ?_, ?_, ?_, ?_, ?_, ?_, ?_⟩
  · exact (foldl_keeps State.seq _ (fun _ _ => by simp) _ _).trans (by simp)
  · exact (foldl_keeps State.plans _ (fun _ _ => by simp) _ _).trans (by simp)
  · exact (foldl_keeps State.filters _ (fun _ _ => by simp) _ _).trans (by simp)
  · exact (foldl_keeps State.captures _ (fun _ _ => by simp) _ _).trans (by simp)
  · exact (foldl_keeps State.monitor _ (fun _ _ => by simp) _ _).trans (by simp)
  · exact (foldl_keeps State.media _ (fun _ _ => by simp) _ _).trans (by simp)
  · exact (foldl_keeps State.store _ (fun _ _ => by simp) _ _).trans (by simp)
  · exact (foldl_keeps State.startup _ (fun _ _ => by simp) _ _).trans (by simp)
  · exact (foldl_keeps State.notices _ (fun _ _ => by simp) _ _).trans (by simp)
  · exact (foldl_keeps State.link _ (fun _ _ => by simp) _ _).trans (by simp)
  · exact (foldl_keeps State.session _ (fun _ _ => by simp) _ _).trans (by simp)
  · exact (foldl_keeps State.choices _ (fun _ _ => by simp) _ _).trans (by simp)
  · exact (foldl_keeps State.pending _ (fun _ _ => by simp) _ _).trans (by simp)

@[simp] theorem State.truncate_keeps (s : State) :
    (s.truncate).seq = s.seq ∧ (s.truncate).plans = s.plans ∧ (s.truncate).filters = s.filters ∧
    (s.truncate).captures = s.captures ∧ (s.truncate).monitor = s.monitor ∧ (s.truncate).media = s.media ∧
    (s.truncate).store = s.store ∧ (s.truncate).startup = s.startup ∧ (s.truncate).notices = s.notices ∧
    (s.truncate).link = s.link ∧ (s.truncate).session = s.session ∧ (s.truncate).choices = s.choices ∧
    (s.truncate).pending = s.pending := ⟨rfl, rfl, rfl, rfl, rfl, rfl, rfl, rfl, rfl, rfl, rfl, rfl, rfl⟩

@[simp] theorem State.closeWindows_keeps (s : State) (phase : Nat) :
    (s.closeWindows phase).seq = s.seq ∧ (s.closeWindows phase).plans = s.plans ∧
    (s.closeWindows phase).timeline = s.timeline ∧ (s.closeWindows phase).channels = s.channels ∧
    (s.closeWindows phase).filters = s.filters ∧ (s.closeWindows phase).captures = s.captures ∧
    (s.closeWindows phase).media = s.media ∧ (s.closeWindows phase).store = s.store ∧
    (s.closeWindows phase).startup = s.startup ∧ (s.closeWindows phase).link = s.link ∧
    (s.closeWindows phase).session = s.session ∧ (s.closeWindows phase).choices = s.choices ∧
    (s.closeWindows phase).pending = s.pending := by
  refine ⟨?_, ?_, ?_, ?_, ?_, ?_, ?_, ?_, ?_, ?_, ?_, ?_, ?_⟩
  · exact (foldl_keeps State.seq _ (fun _ _ => by simp) _ _).trans (by simp)
  · exact (foldl_keeps State.plans _ (fun _ _ => by simp) _ _).trans (by simp)
  · exact (foldl_keeps State.timeline _ (fun _ _ => by simp) _ _).trans (by simp)
  · exact (foldl_keeps State.channels _ (fun _ _ => by simp) _ _).trans (by simp)
  · exact (foldl_keeps State.filters _ (fun _ _ => by simp) _ _).trans (by simp)
  · exact (foldl_keeps State.captures _ (fun _ _ => by simp) _ _).trans (by simp)
  · exact (foldl_keeps State.media _ (fun _ _ => by simp) _ _).trans (by simp)
  · exact (foldl_keeps State.store _ (fun _ _ => by simp) _ _).trans (by simp)
  · exact (foldl_keeps State.startup _ (fun _ _ => by simp) _ _).trans (by simp)
  · exact (foldl_keeps State.link _ (fun _ _ => by simp) _ _).trans (by simp)
  · exact (foldl_keeps State.session _ (fun _ _ => by simp) _ _).trans (by simp)
  · exact (foldl_keeps State.choices _ (fun _ _ => by simp) _ _).trans (by simp)
  · exact (foldl_keeps State.pending _ (fun _ _ => by simp) _ _).trans (by simp)

@[simp] theorem State.swap_keeps (s : State) :
    (s.swap).seq = s.seq ∧ (s.swap).filters = s.filters ∧ (s.swap).captures = s.captures ∧ (s.swap).media = s.media ∧
    (s.swap).store = s.store ∧ (s.swap).startup = s.startup ∧ (s.swap).notices = s.notices ∧ (s.swap).link = s.link ∧
    (s.swap).session = s.session ∧ (s.swap).choices = s.choices ∧ (s.swap).pending = s.pending := ⟨rfl, rfl, rfl, rfl, rfl, rfl, rfl, rfl, rfl, rfl, rfl⟩

@[simp] theorem State.swapPending_keeps (s : State) (cycle : Option W32) :
    (s.swapPending cycle).seq = s.seq ∧ (s.swapPending cycle).filters = s.filters ∧
    (s.swapPending cycle).captures = s.captures ∧ (s.swapPending cycle).media = s.media ∧
    (s.swapPending cycle).store = s.store ∧ (s.swapPending cycle).startup = s.startup ∧
    (s.swapPending cycle).link = s.link ∧ (s.swapPending cycle).session = s.session ∧
    (s.swapPending cycle).choices = s.choices ∧ (s.swapPending cycle).pending = s.pending := by
  simp only [State.swapPending]
  split <;> simp

@[simp] theorem State.cycleStart_keeps (s : State) :
    (s.cycleStart).filters = s.filters ∧ (s.cycleStart).captures = s.captures ∧ (s.cycleStart).media = s.media ∧
    (s.cycleStart).store = s.store ∧ (s.cycleStart).startup = s.startup ∧ (s.cycleStart).link = s.link ∧
    (s.cycleStart).session = s.session ∧ (s.cycleStart).choices = s.choices ∧ (s.cycleStart).pending = s.pending := by
  simp [State.cycleStart]

@[simp] theorem State.enterHalted_keeps (s : State) (cause : HaltCause) (phase : Nat) (subject : Option Nat) :
    (s.enterHalted cause phase subject).filters = s.filters ∧
    (s.enterHalted cause phase subject).captures = s.captures ∧ (s.enterHalted cause phase subject).media = s.media ∧
    (s.enterHalted cause phase subject).store = s.store ∧ (s.enterHalted cause phase subject).startup = s.startup ∧
    (s.enterHalted cause phase subject).link = s.link ∧ (s.enterHalted cause phase subject).session = s.session ∧
    (s.enterHalted cause phase subject).choices = s.choices ∧ (s.enterHalted cause phase subject).pending = s.pending := by
  simp [State.enterHalted]

@[simp] theorem State.startRun_keeps (s : State) (count : Nat) :
    (s.startRun count).filters = s.filters ∧ (s.startRun count).captures = s.captures ∧
    (s.startRun count).media = s.media ∧ (s.startRun count).store = s.store ∧
    (s.startRun count).startup = s.startup ∧ (s.startRun count).link = s.link ∧
    (s.startRun count).session = s.session ∧ (s.startRun count).choices = s.choices ∧
    (s.startRun count).pending = s.pending := by
  simp only [State.startRun]
  split <;> simp

@[simp] theorem State.missReport_keeps (s : State) (w : Window) :
    (s.missReport w).filters = s.filters ∧ (s.missReport w).captures = s.captures ∧
    (s.missReport w).media = s.media ∧ (s.missReport w).store = s.store ∧ (s.missReport w).startup = s.startup ∧
    (s.missReport w).link = s.link ∧ (s.missReport w).session = s.session ∧ (s.missReport w).choices = s.choices ∧
    (s.missReport w).pending = s.pending := by
  simp only [State.missReport]
  split <;> simp

@[simp] theorem State.closeAndReport_keeps (s : State) (phase : Nat) :
    (s.closeAndReport phase).filters = s.filters ∧ (s.closeAndReport phase).captures = s.captures ∧
    (s.closeAndReport phase).media = s.media ∧ (s.closeAndReport phase).store = s.store ∧
    (s.closeAndReport phase).startup = s.startup ∧ (s.closeAndReport phase).link = s.link ∧
    (s.closeAndReport phase).session = s.session ∧ (s.closeAndReport phase).choices = s.choices ∧
    (s.closeAndReport phase).pending = s.pending := by
  refine ⟨?_, ?_, ?_, ?_, ?_, ?_, ?_, ?_, ?_⟩
  · exact (foldl_keeps State.filters _ (fun _ _ => by simp) _ _).trans (by simp)
  · exact (foldl_keeps State.captures _ (fun _ _ => by simp) _ _).trans (by simp)
  · exact (foldl_keeps State.media _ (fun _ _ => by simp) _ _).trans (by simp)
  · exact (foldl_keeps State.store _ (fun _ _ => by simp) _ _).trans (by simp)
  · exact (foldl_keeps State.startup _ (fun _ _ => by simp) _ _).trans (by simp)
  · exact (foldl_keeps State.link _ (fun _ _ => by simp) _ _).trans (by simp)
  · exact (foldl_keeps State.session _ (fun _ _ => by simp) _ _).trans (by simp)
  · exact (foldl_keeps State.choices _ (fun _ _ => by simp) _ _).trans (by simp)
  · exact (foldl_keeps State.pending _ (fun _ _ => by simp) _ _).trans (by simp)

@[simp] theorem State.enterWaiting_keeps (s : State) :
    (s.enterWaiting).plans = s.plans ∧ (s.enterWaiting).timeline = s.timeline ∧
    (s.enterWaiting).channels = s.channels ∧ (s.enterWaiting).filters = s.filters ∧
    (s.enterWaiting).captures = s.captures ∧ (s.enterWaiting).monitor = s.monitor ∧
    (s.enterWaiting).media = s.media ∧ (s.enterWaiting).store = s.store ∧ (s.enterWaiting).startup = s.startup ∧
    (s.enterWaiting).notices = s.notices ∧ (s.enterWaiting).link = s.link ∧ (s.enterWaiting).session = s.session ∧
    (s.enterWaiting).choices = s.choices ∧ (s.enterWaiting).pending = s.pending := ⟨rfl, rfl, rfl, rfl, rfl, rfl, rfl, rfl, rfl, rfl, rfl, rfl, rfl, rfl⟩

@[simp] theorem State.afterCloses_keeps (s : State) :
    (s.afterCloses).filters = s.filters ∧ (s.afterCloses).captures = s.captures ∧ (s.afterCloses).media = s.media ∧
    (s.afterCloses).store = s.store ∧ (s.afterCloses).startup = s.startup ∧ (s.afterCloses).link = s.link ∧
    (s.afterCloses).session = s.session ∧ (s.afterCloses).choices = s.choices ∧ (s.afterCloses).pending = s.pending := by
  simp only [State.afterCloses]
  (repeat' split) <;> simp

@[simp] theorem State.endCycle_keeps (s : State) :
    (s.endCycle).filters = s.filters ∧ (s.endCycle).captures = s.captures ∧ (s.endCycle).media = s.media ∧
    (s.endCycle).store = s.store ∧ (s.endCycle).startup = s.startup ∧ (s.endCycle).link = s.link ∧
    (s.endCycle).session = s.session ∧ (s.endCycle).choices = s.choices ∧ (s.endCycle).pending = s.pending := by
  simp only [State.endCycle]
  split <;> simp

@[simp] theorem State.cut_keeps (s : State) :
    (s.cut).filters = s.filters ∧ (s.cut).captures = s.captures ∧ (s.cut).media = s.media ∧ (s.cut).store = s.store ∧
    (s.cut).startup = s.startup ∧ (s.cut).link = s.link ∧ (s.cut).session = s.session ∧ (s.cut).choices = s.choices ∧
    (s.cut).pending = s.pending := by
  simp only [State.cut]
  (repeat' split) <;> simp

@[simp] theorem State.onInput_keeps (s : State) (i : Fin 4) (f : Filter → Filter) :
    (s.onInput i f).seq = s.seq ∧ (s.onInput i f).plans = s.plans ∧ (s.onInput i f).timeline = s.timeline ∧
    (s.onInput i f).channels = s.channels ∧ (s.onInput i f).captures = s.captures ∧
    (s.onInput i f).monitor = s.monitor ∧ (s.onInput i f).media = s.media ∧ (s.onInput i f).store = s.store ∧
    (s.onInput i f).startup = s.startup ∧ (s.onInput i f).notices = s.notices ∧ (s.onInput i f).link = s.link ∧
    (s.onInput i f).session = s.session ∧ (s.onInput i f).choices = s.choices ∧ (s.onInput i f).pending = s.pending := ⟨rfl, rfl, rfl, rfl, rfl, rfl, rfl, rfl, rfl, rfl, rfl, rfl, rfl, rfl⟩

@[simp] theorem State.countEarly_keeps (s : State) (i : Fin 4) :
    (s.countEarly i).seq = s.seq ∧ (s.countEarly i).plans = s.plans ∧ (s.countEarly i).timeline = s.timeline ∧
    (s.countEarly i).channels = s.channels ∧ (s.countEarly i).filters = s.filters ∧
    (s.countEarly i).monitor = s.monitor ∧ (s.countEarly i).media = s.media ∧ (s.countEarly i).store = s.store ∧
    (s.countEarly i).startup = s.startup ∧ (s.countEarly i).notices = s.notices ∧ (s.countEarly i).link = s.link ∧
    (s.countEarly i).session = s.session ∧ (s.countEarly i).choices = s.choices ∧
    (s.countEarly i).pending = s.pending := ⟨rfl, rfl, rfl, rfl, rfl, rfl, rfl, rfl, rfl, rfl, rfl, rfl, rfl, rfl⟩

@[simp] theorem State.controllerTakes_keeps (s : State) (i : Fin 4) (d : Slope) :
    (s.controllerTakes i d).filters = s.filters ∧ (s.controllerTakes i d).media = s.media ∧
    (s.controllerTakes i d).store = s.store ∧ (s.controllerTakes i d).startup = s.startup ∧
    (s.controllerTakes i d).link = s.link ∧ (s.controllerTakes i d).session = s.session ∧
    (s.controllerTakes i d).choices = s.choices ∧ (s.controllerTakes i d).pending = s.pending := by
  simp only [State.controllerTakes]
  split <;> simp

@[simp] theorem State.monitorTakes_keeps (s : State) (i : Fin 4) (d : Slope) :
    (s.monitorTakes i d).seq = s.seq ∧ (s.monitorTakes i d).plans = s.plans ∧
    (s.monitorTakes i d).timeline = s.timeline ∧ (s.monitorTakes i d).channels = s.channels ∧
    (s.monitorTakes i d).filters = s.filters ∧ (s.monitorTakes i d).captures = s.captures ∧
    (s.monitorTakes i d).media = s.media ∧ (s.monitorTakes i d).store = s.store ∧
    (s.monitorTakes i d).startup = s.startup ∧ (s.monitorTakes i d).notices = s.notices ∧
    (s.monitorTakes i d).link = s.link ∧ (s.monitorTakes i d).session = s.session ∧
    (s.monitorTakes i d).choices = s.choices ∧ (s.monitorTakes i d).pending = s.pending := ⟨rfl, rfl, rfl, rfl, rfl, rfl, rfl, rfl, rfl, rfl, rfl, rfl, rfl, rfl⟩

@[simp] theorem State.record_keeps (s : State) (r : CaptureRecord) :
    (s.record r).seq = s.seq ∧ (s.record r).plans = s.plans ∧ (s.record r).timeline = s.timeline ∧
    (s.record r).channels = s.channels ∧ (s.record r).filters = s.filters ∧ (s.record r).monitor = s.monitor ∧
    (s.record r).media = s.media ∧ (s.record r).store = s.store ∧ (s.record r).startup = s.startup ∧
    (s.record r).link = s.link ∧ (s.record r).session = s.session ∧ (s.record r).choices = s.choices ∧
    (s.record r).pending = s.pending := by
  simp only [State.record]
  (repeat' split) <;> simp

@[simp] theorem State.takeInputEdge_keeps (s : State) (i : Fin 4) (d : Slope) (first : Bool) :
    (s.takeInputEdge i d first).filters = s.filters ∧ (s.takeInputEdge i d first).media = s.media ∧
    (s.takeInputEdge i d first).store = s.store ∧ (s.takeInputEdge i d first).startup = s.startup ∧
    (s.takeInputEdge i d first).link = s.link ∧ (s.takeInputEdge i d first).session = s.session ∧
    (s.takeInputEdge i d first).choices = s.choices ∧ (s.takeInputEdge i d first).pending = s.pending := by
  simp only [State.takeInputEdge, State.captureEdge]
  (repeat' split) <;> simp

@[simp] theorem State.countLink_keeps (s : State) (f : LinkCounters → LinkCounters) :
    (s.countLink f).seq = s.seq ∧ (s.countLink f).plans = s.plans ∧ (s.countLink f).timeline = s.timeline ∧
    (s.countLink f).channels = s.channels ∧ (s.countLink f).filters = s.filters ∧
    (s.countLink f).captures = s.captures ∧ (s.countLink f).monitor = s.monitor ∧ (s.countLink f).media = s.media ∧
    (s.countLink f).store = s.store ∧ (s.countLink f).startup = s.startup ∧ (s.countLink f).notices = s.notices ∧
    (s.countLink f).session = s.session ∧ (s.countLink f).choices = s.choices ∧ (s.countLink f).pending = s.pending := ⟨rfl, rfl, rfl, rfl, rfl, rfl, rfl, rfl, rfl, rfl, rfl, rfl, rfl, rfl⟩

@[simp] theorem State.withAsm_keeps (s : State) (a : Asm) :
    (s.withAsm a).seq = s.seq ∧ (s.withAsm a).plans = s.plans ∧ (s.withAsm a).timeline = s.timeline ∧
    (s.withAsm a).channels = s.channels ∧ (s.withAsm a).filters = s.filters ∧ (s.withAsm a).captures = s.captures ∧
    (s.withAsm a).monitor = s.monitor ∧ (s.withAsm a).media = s.media ∧ (s.withAsm a).store = s.store ∧
    (s.withAsm a).startup = s.startup ∧ (s.withAsm a).notices = s.notices ∧ (s.withAsm a).session = s.session ∧
    (s.withAsm a).choices = s.choices ∧ (s.withAsm a).pending = s.pending := ⟨rfl, rfl, rfl, rfl, rfl, rfl, rfl, rfl, rfl, rfl, rfl, rfl, rfl, rfl⟩

@[simp] theorem State.offer_keeps (s : State) (f : Frame) :
    (s.offer f).seq = s.seq ∧ (s.offer f).plans = s.plans ∧ (s.offer f).timeline = s.timeline ∧
    (s.offer f).channels = s.channels ∧ (s.offer f).filters = s.filters ∧ (s.offer f).captures = s.captures ∧
    (s.offer f).monitor = s.monitor ∧ (s.offer f).media = s.media ∧ (s.offer f).store = s.store ∧
    (s.offer f).startup = s.startup ∧ (s.offer f).notices = s.notices ∧ (s.offer f).session = s.session ∧
    (s.offer f).choices = s.choices ∧ (s.offer f).pending = s.pending := by
  simp only [State.offer]
  split <;> simp

@[simp] theorem State.linkActivity_keeps (s : State) :
    (s.linkActivity).seq = s.seq ∧ (s.linkActivity).plans = s.plans ∧ (s.linkActivity).timeline = s.timeline ∧
    (s.linkActivity).channels = s.channels ∧ (s.linkActivity).filters = s.filters ∧
    (s.linkActivity).captures = s.captures ∧ (s.linkActivity).monitor = s.monitor ∧
    (s.linkActivity).media = s.media ∧ (s.linkActivity).store = s.store ∧ (s.linkActivity).startup = s.startup ∧
    (s.linkActivity).notices = s.notices ∧ (s.linkActivity).link = s.link ∧ (s.linkActivity).choices = s.choices ∧
    (s.linkActivity).pending = s.pending := by
  simp only [State.linkActivity]
  split <;> simp

@[simp] theorem State.goodFrame_keeps (s : State) (f : Frame) :
    (s.goodFrame f).seq = s.seq ∧ (s.goodFrame f).plans = s.plans ∧ (s.goodFrame f).timeline = s.timeline ∧
    (s.goodFrame f).channels = s.channels ∧ (s.goodFrame f).filters = s.filters ∧
    (s.goodFrame f).captures = s.captures ∧ (s.goodFrame f).monitor = s.monitor ∧ (s.goodFrame f).media = s.media ∧
    (s.goodFrame f).store = s.store ∧ (s.goodFrame f).startup = s.startup ∧ (s.goodFrame f).notices = s.notices ∧
    (s.goodFrame f).choices = s.choices ∧ (s.goodFrame f).pending = s.pending := by
  simp only [State.goodFrame]
  split <;> simp

@[simp] theorem State.linkEvent_keeps (s : State) (e : LinkEvent) :
    (s.linkEvent e).seq = s.seq ∧ (s.linkEvent e).plans = s.plans ∧ (s.linkEvent e).timeline = s.timeline ∧
    (s.linkEvent e).channels = s.channels ∧ (s.linkEvent e).filters = s.filters ∧
    (s.linkEvent e).captures = s.captures ∧ (s.linkEvent e).monitor = s.monitor ∧ (s.linkEvent e).media = s.media ∧
    (s.linkEvent e).store = s.store ∧ (s.linkEvent e).startup = s.startup ∧ (s.linkEvent e).notices = s.notices ∧
    (s.linkEvent e).choices = s.choices ∧ (s.linkEvent e).pending = s.pending := by
  simp only [State.linkEvent]
  split <;> simp

@[simp] theorem State.rescanned_keeps (s : State) (found : List LinkEvent × Asm) :
    (s.rescanned found).seq = s.seq ∧ (s.rescanned found).plans = s.plans ∧
    (s.rescanned found).timeline = s.timeline ∧ (s.rescanned found).channels = s.channels ∧
    (s.rescanned found).filters = s.filters ∧ (s.rescanned found).captures = s.captures ∧
    (s.rescanned found).monitor = s.monitor ∧ (s.rescanned found).media = s.media ∧
    (s.rescanned found).store = s.store ∧ (s.rescanned found).startup = s.startup ∧
    (s.rescanned found).notices = s.notices ∧ (s.rescanned found).choices = s.choices ∧
    (s.rescanned found).pending = s.pending := by
  refine ⟨?_, ?_, ?_, ?_, ?_, ?_, ?_, ?_, ?_, ?_, ?_, ?_, ?_⟩
  · simp only [State.rescanned, State.withAsm_keeps]; exact (foldl_keeps State.seq _ (fun _ _ => by simp) _ _).trans (by simp)
  · simp only [State.rescanned, State.withAsm_keeps]; exact (foldl_keeps State.plans _ (fun _ _ => by simp) _ _).trans (by simp)
  · simp only [State.rescanned, State.withAsm_keeps]; exact (foldl_keeps State.timeline _ (fun _ _ => by simp) _ _).trans (by simp)
  · simp only [State.rescanned, State.withAsm_keeps]; exact (foldl_keeps State.channels _ (fun _ _ => by simp) _ _).trans (by simp)
  · simp only [State.rescanned, State.withAsm_keeps]; exact (foldl_keeps State.filters _ (fun _ _ => by simp) _ _).trans (by simp)
  · simp only [State.rescanned, State.withAsm_keeps]; exact (foldl_keeps State.captures _ (fun _ _ => by simp) _ _).trans (by simp)
  · simp only [State.rescanned, State.withAsm_keeps]; exact (foldl_keeps State.monitor _ (fun _ _ => by simp) _ _).trans (by simp)
  · simp only [State.rescanned, State.withAsm_keeps]; exact (foldl_keeps State.media _ (fun _ _ => by simp) _ _).trans (by simp)
  · simp only [State.rescanned, State.withAsm_keeps]; exact (foldl_keeps State.store _ (fun _ _ => by simp) _ _).trans (by simp)
  · simp only [State.rescanned, State.withAsm_keeps]; exact (foldl_keeps State.startup _ (fun _ _ => by simp) _ _).trans (by simp)
  · simp only [State.rescanned, State.withAsm_keeps]; exact (foldl_keeps State.notices _ (fun _ _ => by simp) _ _).trans (by simp)
  · simp only [State.rescanned, State.withAsm_keeps]; exact (foldl_keeps State.choices _ (fun _ _ => by simp) _ _).trans (by simp)
  · simp only [State.rescanned, State.withAsm_keeps]; exact (foldl_keeps State.pending _ (fun _ _ => by simp) _ _).trans (by simp)

@[simp] theorem State.checkFrame_keeps (s : State) :
    (s.checkFrame).seq = s.seq ∧ (s.checkFrame).plans = s.plans ∧ (s.checkFrame).timeline = s.timeline ∧
    (s.checkFrame).channels = s.channels ∧ (s.checkFrame).filters = s.filters ∧
    (s.checkFrame).captures = s.captures ∧ (s.checkFrame).monitor = s.monitor ∧ (s.checkFrame).media = s.media ∧
    (s.checkFrame).store = s.store ∧ (s.checkFrame).startup = s.startup ∧ (s.checkFrame).notices = s.notices ∧
    (s.checkFrame).choices = s.choices ∧ (s.checkFrame).pending = s.pending := by
  simp only [State.checkFrame]
  (repeat' split) <;> simp

@[simp] theorem State.checkIfComplete_keeps (s : State) :
    (s.checkIfComplete).seq = s.seq ∧ (s.checkIfComplete).plans = s.plans ∧
    (s.checkIfComplete).timeline = s.timeline ∧ (s.checkIfComplete).channels = s.channels ∧
    (s.checkIfComplete).filters = s.filters ∧ (s.checkIfComplete).captures = s.captures ∧
    (s.checkIfComplete).monitor = s.monitor ∧ (s.checkIfComplete).media = s.media ∧
    (s.checkIfComplete).store = s.store ∧ (s.checkIfComplete).startup = s.startup ∧
    (s.checkIfComplete).notices = s.notices ∧ (s.checkIfComplete).choices = s.choices ∧
    (s.checkIfComplete).pending = s.pending := by
  simp only [State.checkIfComplete]
  split <;> simp

@[simp] theorem State.receive_keeps (s : State) (b : Byte) :
    (s.receive b).seq = s.seq ∧ (s.receive b).plans = s.plans ∧ (s.receive b).timeline = s.timeline ∧
    (s.receive b).channels = s.channels ∧ (s.receive b).filters = s.filters ∧ (s.receive b).captures = s.captures ∧
    (s.receive b).monitor = s.monitor ∧ (s.receive b).media = s.media ∧ (s.receive b).store = s.store ∧
    (s.receive b).startup = s.startup ∧ (s.receive b).notices = s.notices ∧ (s.receive b).choices = s.choices ∧
    (s.receive b).pending = s.pending := by
  simp only [State.receive]
  split <;> simp

@[simp] theorem State.gapExpired_keeps (s : State) :
    (s.gapExpired).seq = s.seq ∧ (s.gapExpired).plans = s.plans ∧ (s.gapExpired).timeline = s.timeline ∧
    (s.gapExpired).channels = s.channels ∧ (s.gapExpired).filters = s.filters ∧
    (s.gapExpired).captures = s.captures ∧ (s.gapExpired).monitor = s.monitor ∧ (s.gapExpired).media = s.media ∧
    (s.gapExpired).store = s.store ∧ (s.gapExpired).startup = s.startup ∧ (s.gapExpired).notices = s.notices ∧
    (s.gapExpired).choices = s.choices ∧ (s.gapExpired).pending = s.pending := by
  simp [State.gapExpired]

@[simp] theorem State.beginNotice_keeps (s : State) :
    (s.beginNotice).seq = s.seq ∧ (s.beginNotice).plans = s.plans ∧ (s.beginNotice).timeline = s.timeline ∧
    (s.beginNotice).channels = s.channels ∧ (s.beginNotice).filters = s.filters ∧
    (s.beginNotice).captures = s.captures ∧ (s.beginNotice).monitor = s.monitor ∧ (s.beginNotice).media = s.media ∧
    (s.beginNotice).store = s.store ∧ (s.beginNotice).startup = s.startup ∧ (s.beginNotice).session = s.session ∧
    (s.beginNotice).choices = s.choices ∧ (s.beginNotice).pending = s.pending := by
  simp only [State.beginNotice]
  split <;> simp

@[simp] theorem State.arbitrate_keeps (s : State) :
    (s.arbitrate).seq = s.seq ∧ (s.arbitrate).plans = s.plans ∧ (s.arbitrate).timeline = s.timeline ∧
    (s.arbitrate).channels = s.channels ∧ (s.arbitrate).filters = s.filters ∧ (s.arbitrate).captures = s.captures ∧
    (s.arbitrate).monitor = s.monitor ∧ (s.arbitrate).media = s.media ∧ (s.arbitrate).store = s.store ∧
    (s.arbitrate).startup = s.startup ∧ (s.arbitrate).session = s.session ∧ (s.arbitrate).choices = s.choices ∧
    (s.arbitrate).pending = s.pending := by
  simp only [State.arbitrate]
  (repeat' split) <;> simp

@[simp] theorem State.readCounts_keeps (s : State) :
    (s.readCounts).seq = s.seq ∧ (s.readCounts).plans = s.plans ∧ (s.readCounts).timeline = s.timeline ∧
    (s.readCounts).channels = s.channels ∧ (s.readCounts).filters = s.filters ∧
    (s.readCounts).captures = s.captures ∧ (s.readCounts).monitor = s.monitor ∧ (s.readCounts).media = s.media ∧
    (s.readCounts).startup = s.startup ∧ (s.readCounts).notices = s.notices ∧ (s.readCounts).link = s.link ∧
    (s.readCounts).session = s.session ∧ (s.readCounts).choices = s.choices ∧
    (s.readCounts).pending = s.pending := ⟨rfl, rfl, rfl, rfl, rfl, rfl, rfl, rfl, rfl, rfl, rfl, rfl, rfl, rfl⟩

@[simp] theorem State.emptyDirectory_keeps (s : State) :
    (s.emptyDirectory).seq = s.seq ∧ (s.emptyDirectory).plans = s.plans ∧
    (s.emptyDirectory).timeline = s.timeline ∧ (s.emptyDirectory).channels = s.channels ∧
    (s.emptyDirectory).filters = s.filters ∧ (s.emptyDirectory).captures = s.captures ∧
    (s.emptyDirectory).monitor = s.monitor ∧ (s.emptyDirectory).media = s.media ∧
    (s.emptyDirectory).startup = s.startup ∧ (s.emptyDirectory).notices = s.notices ∧
    (s.emptyDirectory).link = s.link ∧ (s.emptyDirectory).session = s.session ∧
    (s.emptyDirectory).choices = s.choices ∧ (s.emptyDirectory).pending = s.pending := ⟨rfl, rfl, rfl, rfl, rfl, rfl, rfl, rfl, rfl, rfl, rfl, rfl, rfl, rfl⟩

@[simp] theorem State.endOp_keeps (s : State) (op : StoreOp) (result : StoreResult) (compacted worn : Bool) :
    (s.endOp op result compacted worn).seq = s.seq ∧ (s.endOp op result compacted worn).plans = s.plans ∧
    (s.endOp op result compacted worn).timeline = s.timeline ∧
    (s.endOp op result compacted worn).channels = s.channels ∧
    (s.endOp op result compacted worn).filters = s.filters ∧
    (s.endOp op result compacted worn).captures = s.captures ∧
    (s.endOp op result compacted worn).monitor = s.monitor ∧ (s.endOp op result compacted worn).media = s.media ∧
    (s.endOp op result compacted worn).startup = s.startup ∧ (s.endOp op result compacted worn).link = s.link ∧
    (s.endOp op result compacted worn).session = s.session ∧ (s.endOp op result compacted worn).choices = s.choices ∧
    (s.endOp op result compacted worn).pending = s.pending := ⟨rfl, rfl, rfl, rfl, rfl, rfl, rfl, rfl, rfl, rfl, rfl, rfl, rfl⟩

@[simp] theorem State.beginOp_keeps (s : State) (op : StoreOp) (steps : List MediaStep) (worn : Bool) :
    (s.beginOp op steps worn).seq = s.seq ∧ (s.beginOp op steps worn).plans = s.plans ∧
    (s.beginOp op steps worn).timeline = s.timeline ∧ (s.beginOp op steps worn).channels = s.channels ∧
    (s.beginOp op steps worn).filters = s.filters ∧ (s.beginOp op steps worn).captures = s.captures ∧
    (s.beginOp op steps worn).monitor = s.monitor ∧ (s.beginOp op steps worn).media = s.media ∧
    (s.beginOp op steps worn).startup = s.startup ∧ (s.beginOp op steps worn).notices = s.notices ∧
    (s.beginOp op steps worn).link = s.link ∧ (s.beginOp op steps worn).session = s.session ∧
    (s.beginOp op steps worn).choices = s.choices ∧ (s.beginOp op steps worn).pending = s.pending := ⟨rfl, rfl, rfl, rfl, rfl, rfl, rfl, rfl, rfl, rfl, rfl, rfl, rfl, rfl⟩

@[simp] theorem State.stepVerified_keeps (s : State) (job : Job) (step : MediaStep) (rest : List MediaStep) :
    (s.stepVerified job step rest).seq = s.seq ∧ (s.stepVerified job step rest).plans = s.plans ∧
    (s.stepVerified job step rest).timeline = s.timeline ∧ (s.stepVerified job step rest).channels = s.channels ∧
    (s.stepVerified job step rest).filters = s.filters ∧ (s.stepVerified job step rest).captures = s.captures ∧
    (s.stepVerified job step rest).monitor = s.monitor ∧ (s.stepVerified job step rest).media = s.media ∧
    (s.stepVerified job step rest).startup = s.startup ∧ (s.stepVerified job step rest).link = s.link ∧
    (s.stepVerified job step rest).session = s.session ∧ (s.stepVerified job step rest).choices = s.choices ∧
    (s.stepVerified job step rest).pending = s.pending := by
  simp only [State.stepVerified]
  split <;> simp

@[simp] theorem State.stepFailed_keeps (s : State) (job : Job) :
    (s.stepFailed job).seq = s.seq ∧ (s.stepFailed job).plans = s.plans ∧ (s.stepFailed job).timeline = s.timeline ∧
    (s.stepFailed job).channels = s.channels ∧ (s.stepFailed job).filters = s.filters ∧
    (s.stepFailed job).captures = s.captures ∧ (s.stepFailed job).monitor = s.monitor ∧
    (s.stepFailed job).media = s.media ∧ (s.stepFailed job).startup = s.startup ∧ (s.stepFailed job).link = s.link ∧
    (s.stepFailed job).session = s.session ∧ (s.stepFailed job).choices = s.choices ∧
    (s.stepFailed job).pending = s.pending := by
  simp only [State.stepFailed]
  split <;> simp

@[simp] theorem State.programEnds_keeps (s : State) (faults : List Host.Cell) (job : Job) (step : MediaStep) (rest : List MediaStep) (bank : Bank) (offset : Nat) (data : List Byte) :
    (s.programEnds faults job step rest bank offset data).seq = s.seq ∧
    (s.programEnds faults job step rest bank offset data).plans = s.plans ∧
    (s.programEnds faults job step rest bank offset data).timeline = s.timeline ∧
    (s.programEnds faults job step rest bank offset data).channels = s.channels ∧
    (s.programEnds faults job step rest bank offset data).filters = s.filters ∧
    (s.programEnds faults job step rest bank offset data).captures = s.captures ∧
    (s.programEnds faults job step rest bank offset data).monitor = s.monitor ∧
    (s.programEnds faults job step rest bank offset data).startup = s.startup ∧
    (s.programEnds faults job step rest bank offset data).link = s.link ∧
    (s.programEnds faults job step rest bank offset data).session = s.session ∧
    (s.programEnds faults job step rest bank offset data).choices = s.choices ∧
    (s.programEnds faults job step rest bank offset data).pending = s.pending := by
  simp only [State.programEnds]
  split <;> simp

@[simp] theorem State.eraseEnds_keeps (s : State) (faults : List Host.Cell) (job : Job) (step : MediaStep) (rest : List MediaStep) (bank : Bank) :
    (s.eraseEnds faults job step rest bank).seq = s.seq ∧ (s.eraseEnds faults job step rest bank).plans = s.plans ∧
    (s.eraseEnds faults job step rest bank).timeline = s.timeline ∧
    (s.eraseEnds faults job step rest bank).channels = s.channels ∧
    (s.eraseEnds faults job step rest bank).filters = s.filters ∧
    (s.eraseEnds faults job step rest bank).captures = s.captures ∧
    (s.eraseEnds faults job step rest bank).monitor = s.monitor ∧
    (s.eraseEnds faults job step rest bank).startup = s.startup ∧
    (s.eraseEnds faults job step rest bank).link = s.link ∧
    (s.eraseEnds faults job step rest bank).session = s.session ∧
    (s.eraseEnds faults job step rest bank).choices = s.choices ∧
    (s.eraseEnds faults job step rest bank).pending = s.pending := by
  simp only [State.eraseEnds]
  split <;> simp

@[simp] theorem State.begins_keeps (s : State) (rate1 rate0 : Wire) :
    (s.begins rate1 rate0).seq = s.seq ∧ (s.begins rate1 rate0).plans = s.plans ∧
    (s.begins rate1 rate0).timeline = s.timeline ∧ (s.begins rate1 rate0).channels = s.channels ∧
    (s.begins rate1 rate0).filters = s.filters ∧ (s.begins rate1 rate0).captures = s.captures ∧
    (s.begins rate1 rate0).monitor = s.monitor ∧ (s.begins rate1 rate0).media = s.media ∧
    (s.begins rate1 rate0).notices = s.notices ∧ (s.begins rate1 rate0).session = s.session ∧
    (s.begins rate1 rate0).choices = s.choices ∧ (s.begins rate1 rate0).pending = s.pending := ⟨rfl, rfl, rfl, rfl, rfl, rfl, rfl, rfl, rfl, rfl, rfl, rfl⟩

@[simp] theorem State.install_keeps (s : State) (p : Plan) :
    (s.install p).seq = s.seq ∧ (s.install p).channels = s.channels ∧ (s.install p).filters = s.filters ∧
    (s.install p).captures = s.captures ∧ (s.install p).media = s.media ∧ (s.install p).store = s.store ∧
    (s.install p).startup = s.startup ∧ (s.install p).notices = s.notices ∧ (s.install p).link = s.link ∧
    (s.install p).session = s.session ∧ (s.install p).choices = s.choices ∧ (s.install p).pending = s.pending := ⟨rfl, rfl, rfl, rfl, rfl, rfl, rfl, rfl, rfl, rfl, rfl, rfl⟩

@[simp] theorem State.booted_keeps (s : State) (slot : Option (Fin 8)) (result : BootResult) :
    (s.booted slot result).seq = s.seq ∧ (s.booted slot result).plans = s.plans ∧
    (s.booted slot result).timeline = s.timeline ∧ (s.booted slot result).channels = s.channels ∧
    (s.booted slot result).filters = s.filters ∧ (s.booted slot result).captures = s.captures ∧
    (s.booted slot result).monitor = s.monitor ∧ (s.booted slot result).media = s.media ∧
    (s.booted slot result).store = s.store ∧ (s.booted slot result).notices = s.notices ∧
    (s.booted slot result).link = s.link ∧ (s.booted slot result).session = s.session ∧
    (s.booted slot result).choices = s.choices ∧ (s.booted slot result).pending = s.pending := ⟨rfl, rfl, rfl, rfl, rfl, rfl, rfl, rfl, rfl, rfl, rfl, rfl, rfl, rfl⟩

@[simp] theorem State.keepAutoRun_keeps (s : State) (choice : Bool) :
    (s.keepAutoRun choice).seq = s.seq ∧ (s.keepAutoRun choice).plans = s.plans ∧
    (s.keepAutoRun choice).timeline = s.timeline ∧ (s.keepAutoRun choice).channels = s.channels ∧
    (s.keepAutoRun choice).filters = s.filters ∧ (s.keepAutoRun choice).captures = s.captures ∧
    (s.keepAutoRun choice).monitor = s.monitor ∧ (s.keepAutoRun choice).media = s.media ∧
    (s.keepAutoRun choice).store = s.store ∧ (s.keepAutoRun choice).notices = s.notices ∧
    (s.keepAutoRun choice).link = s.link ∧ (s.keepAutoRun choice).session = s.session ∧
    (s.keepAutoRun choice).choices = s.choices ∧ (s.keepAutoRun choice).pending = s.pending := ⟨rfl, rfl, rfl, rfl, rfl, rfl, rfl, rfl, rfl, rfl, rfl, rfl, rfl, rfl⟩

@[simp] theorem State.bootFrom_keeps (s : State) (slot : Fin 8) :
    (s.bootFrom slot).seq = s.seq ∧ (s.bootFrom slot).channels = s.channels ∧ (s.bootFrom slot).filters = s.filters ∧
    (s.bootFrom slot).captures = s.captures ∧ (s.bootFrom slot).media = s.media ∧ (s.bootFrom slot).store = s.store ∧
    (s.bootFrom slot).notices = s.notices ∧ (s.bootFrom slot).link = s.link ∧ (s.bootFrom slot).session = s.session ∧
    (s.bootFrom slot).choices = s.choices ∧ (s.bootFrom slot).pending = s.pending := by
  simp only [State.bootFrom]
  (repeat' split) <;> simp

@[simp] theorem State.bootLoad_keeps (s : State) :
    (s.bootLoad).seq = s.seq ∧ (s.bootLoad).channels = s.channels ∧ (s.bootLoad).filters = s.filters ∧
    (s.bootLoad).captures = s.captures ∧ (s.bootLoad).media = s.media ∧ (s.bootLoad).store = s.store ∧
    (s.bootLoad).notices = s.notices ∧ (s.bootLoad).link = s.link ∧ (s.bootLoad).session = s.session ∧
    (s.bootLoad).choices = s.choices ∧ (s.bootLoad).pending = s.pending := by
  simp only [State.bootLoad]
  split <;> simp

@[simp] theorem State.autoRunStage_keeps (s : State) :
    (s.autoRunStage).filters = s.filters ∧ (s.autoRunStage).captures = s.captures ∧
    (s.autoRunStage).media = s.media ∧ (s.autoRunStage).store = s.store ∧ (s.autoRunStage).link = s.link ∧
    (s.autoRunStage).session = s.session ∧ (s.autoRunStage).choices = s.choices ∧
    (s.autoRunStage).pending = s.pending := by
  simp only [State.autoRunStage]
  split <;> simp

@[simp] theorem State.reportStage_keeps (s : State) :
    (s.reportStage).seq = s.seq ∧ (s.reportStage).plans = s.plans ∧ (s.reportStage).timeline = s.timeline ∧
    (s.reportStage).channels = s.channels ∧ (s.reportStage).filters = s.filters ∧
    (s.reportStage).captures = s.captures ∧ (s.reportStage).monitor = s.monitor ∧ (s.reportStage).media = s.media ∧
    (s.reportStage).store = s.store ∧ (s.reportStage).link = s.link ∧ (s.reportStage).session = s.session ∧
    (s.reportStage).choices = s.choices ∧ (s.reportStage).pending = s.pending := ⟨rfl, rfl, rfl, rfl, rfl, rfl, rfl, rfl, rfl, rfl, rfl, rfl, rfl⟩

@[simp] theorem State.runStage_keeps (s : State) :
    (s.runStage).filters = s.filters ∧ (s.runStage).captures = s.captures ∧ (s.runStage).media = s.media ∧
    (s.runStage).store = s.store ∧ (s.runStage).session = s.session ∧ (s.runStage).choices = s.choices ∧
    (s.runStage).pending = s.pending := by
  simp [State.runStage]

@[simp] theorem State.scanDone_keeps (s : State) (found : Directory) (report : ScanReport) :
    (s.scanDone found report).seq = s.seq ∧ (s.scanDone found report).plans = s.plans ∧
    (s.scanDone found report).timeline = s.timeline ∧ (s.scanDone found report).channels = s.channels ∧
    (s.scanDone found report).filters = s.filters ∧ (s.scanDone found report).captures = s.captures ∧
    (s.scanDone found report).monitor = s.monitor ∧ (s.scanDone found report).media = s.media ∧
    (s.scanDone found report).notices = s.notices ∧ (s.scanDone found report).link = s.link ∧
    (s.scanDone found report).session = s.session ∧ (s.scanDone found report).choices = s.choices ∧
    (s.scanDone found report).pending = s.pending := ⟨rfl, rfl, rfl, rfl, rfl, rfl, rfl, rfl, rfl, rfl, rfl, rfl, rfl⟩

@[simp] theorem State.scanEnds_keeps (s : State) (found : Directory) (report : ScanReport) :
    (s.scanEnds found report).filters = s.filters ∧ (s.scanEnds found report).captures = s.captures ∧
    (s.scanEnds found report).media = s.media ∧ (s.scanEnds found report).session = s.session ∧
    (s.scanEnds found report).choices = s.choices ∧ (s.scanEnds found report).pending = s.pending := by
  simp only [State.scanEnds]
  split <;> simp

@[simp] theorem State.uncache_keeps (s : State) (code : Nat) (q : Req) :
    (s.uncache code q).seq = s.seq ∧ (s.uncache code q).plans = s.plans ∧ (s.uncache code q).timeline = s.timeline ∧
    (s.uncache code q).channels = s.channels ∧ (s.uncache code q).filters = s.filters ∧
    (s.uncache code q).captures = s.captures ∧ (s.uncache code q).monitor = s.monitor ∧
    (s.uncache code q).media = s.media ∧ (s.uncache code q).store = s.store ∧
    (s.uncache code q).startup = s.startup ∧ (s.uncache code q).notices = s.notices ∧
    (s.uncache code q).link = s.link ∧ (s.uncache code q).choices = s.choices ∧
    (s.uncache code q).pending = s.pending := by
  simp only [State.uncache]
  split <;> simp

@[simp] theorem State.cacheReply_keeps (s : State) (code : Nat) (q : Req) (r : Reply) :
    (s.cacheReply code q r).seq = s.seq ∧ (s.cacheReply code q r).plans = s.plans ∧
    (s.cacheReply code q r).timeline = s.timeline ∧ (s.cacheReply code q r).channels = s.channels ∧
    (s.cacheReply code q r).filters = s.filters ∧ (s.cacheReply code q r).captures = s.captures ∧
    (s.cacheReply code q r).monitor = s.monitor ∧ (s.cacheReply code q r).media = s.media ∧
    (s.cacheReply code q r).store = s.store ∧ (s.cacheReply code q r).startup = s.startup ∧
    (s.cacheReply code q r).notices = s.notices ∧ (s.cacheReply code q r).link = s.link ∧
    (s.cacheReply code q r).choices = s.choices ∧ (s.cacheReply code q r).pending = s.pending := by
  simp only [State.cacheReply]
  split <;> simp

@[simp] theorem State.putReply_keeps (s : State) (r : Reply) :
    (s.putReply r).seq = s.seq ∧ (s.putReply r).plans = s.plans ∧ (s.putReply r).timeline = s.timeline ∧
    (s.putReply r).channels = s.channels ∧ (s.putReply r).filters = s.filters ∧
    (s.putReply r).captures = s.captures ∧ (s.putReply r).monitor = s.monitor ∧ (s.putReply r).media = s.media ∧
    (s.putReply r).store = s.store ∧ (s.putReply r).startup = s.startup ∧ (s.putReply r).notices = s.notices ∧
    (s.putReply r).session = s.session ∧ (s.putReply r).choices = s.choices ∧ (s.putReply r).pending = s.pending := ⟨rfl, rfl, rfl, rfl, rfl, rfl, rfl, rfl, rfl, rfl, rfl, rfl, rfl, rfl⟩

@[simp] theorem State.orderNotice_keeps (s : State) :
    (s.orderNotice).seq = s.seq ∧ (s.orderNotice).plans = s.plans ∧ (s.orderNotice).timeline = s.timeline ∧
    (s.orderNotice).channels = s.channels ∧ (s.orderNotice).filters = s.filters ∧
    (s.orderNotice).captures = s.captures ∧ (s.orderNotice).monitor = s.monitor ∧ (s.orderNotice).media = s.media ∧
    (s.orderNotice).store = s.store ∧ (s.orderNotice).startup = s.startup ∧ (s.orderNotice).session = s.session ∧
    (s.orderNotice).pending = s.pending := by
  simp only [State.orderNotice]
  (repeat' split) <;> simp

@[simp] theorem State.send_keeps (s : State) (r : Reply) (replyFirst : Bool) :
    (s.send r replyFirst).seq = s.seq ∧ (s.send r replyFirst).plans = s.plans ∧
    (s.send r replyFirst).timeline = s.timeline ∧ (s.send r replyFirst).channels = s.channels ∧
    (s.send r replyFirst).filters = s.filters ∧ (s.send r replyFirst).captures = s.captures ∧
    (s.send r replyFirst).monitor = s.monitor ∧ (s.send r replyFirst).media = s.media ∧
    (s.send r replyFirst).store = s.store ∧ (s.send r replyFirst).startup = s.startup ∧
    (s.send r replyFirst).session = s.session ∧ (s.send r replyFirst).pending = s.pending := by
  simp only [State.send]
  split <;> simp

@[simp] theorem State.cleared_keeps (s : State) :
    (s.cleared).seq = s.seq ∧ (s.cleared).plans = s.plans ∧ (s.cleared).timeline = s.timeline ∧
    (s.cleared).channels = s.channels ∧ (s.cleared).filters = s.filters ∧ (s.cleared).captures = s.captures ∧
    (s.cleared).monitor = s.monitor ∧ (s.cleared).media = s.media ∧ (s.cleared).store = s.store ∧
    (s.cleared).startup = s.startup ∧ (s.cleared).notices = s.notices ∧ (s.cleared).session = s.session ∧
    (s.cleared).choices = s.choices ∧ (s.cleared).pending = s.pending := ⟨rfl, rfl, rfl, rfl, rfl, rfl, rfl, rfl, rfl, rfl, rfl, rfl, rfl, rfl⟩

@[simp] theorem State.acknowledge_keeps (s : State) (number : Nat) :
    (s.acknowledge number).seq = s.seq ∧ (s.acknowledge number).plans = s.plans ∧
    (s.acknowledge number).timeline = s.timeline ∧ (s.acknowledge number).channels = s.channels ∧
    (s.acknowledge number).filters = s.filters ∧ (s.acknowledge number).captures = s.captures ∧
    (s.acknowledge number).monitor = s.monitor ∧ (s.acknowledge number).media = s.media ∧
    (s.acknowledge number).store = s.store ∧ (s.acknowledge number).startup = s.startup ∧
    (s.acknowledge number).session = s.session ∧ (s.acknowledge number).choices = s.choices ∧
    (s.acknowledge number).pending = s.pending := by
  simp only [State.acknowledge]
  split <;> simp

@[simp] theorem State.takeAck_keeps (s : State) (number : W16) :
    (s.takeAck number).seq = s.seq ∧ (s.takeAck number).plans = s.plans ∧ (s.takeAck number).timeline = s.timeline ∧
    (s.takeAck number).channels = s.channels ∧ (s.takeAck number).filters = s.filters ∧
    (s.takeAck number).captures = s.captures ∧ (s.takeAck number).monitor = s.monitor ∧
    (s.takeAck number).media = s.media ∧ (s.takeAck number).store = s.store ∧
    (s.takeAck number).startup = s.startup ∧ (s.takeAck number).session = s.session ∧
    (s.takeAck number).choices = s.choices ∧ (s.takeAck number).pending = s.pending := by
  simp only [State.takeAck]
  (repeat' split) <;> simp

@[simp] theorem State.stage_keeps (s : State) (p : Plan) :
    (s.stage p).seq = s.seq ∧ (s.stage p).timeline = s.timeline ∧ (s.stage p).channels = s.channels ∧
    (s.stage p).filters = s.filters ∧ (s.stage p).captures = s.captures ∧ (s.stage p).monitor = s.monitor ∧
    (s.stage p).media = s.media ∧ (s.stage p).store = s.store ∧ (s.stage p).startup = s.startup ∧
    (s.stage p).notices = s.notices ∧ (s.stage p).link = s.link ∧ (s.stage p).session = s.session ∧
    (s.stage p).choices = s.choices ∧ (s.stage p).pending = s.pending := ⟨rfl, rfl, rfl, rfl, rfl, rfl, rfl, rfl, rfl, rfl, rfl, rfl, rfl, rfl⟩

@[simp] theorem State.setOutcome_keeps (s : State) (o : CommitOutcome) :
    (s.setOutcome o).seq = s.seq ∧ (s.setOutcome o).timeline = s.timeline ∧ (s.setOutcome o).channels = s.channels ∧
    (s.setOutcome o).filters = s.filters ∧ (s.setOutcome o).captures = s.captures ∧
    (s.setOutcome o).monitor = s.monitor ∧ (s.setOutcome o).media = s.media ∧ (s.setOutcome o).store = s.store ∧
    (s.setOutcome o).startup = s.startup ∧ (s.setOutcome o).notices = s.notices ∧ (s.setOutcome o).link = s.link ∧
    (s.setOutcome o).session = s.session ∧ (s.setOutcome o).choices = s.choices ∧
    (s.setOutcome o).pending = s.pending := ⟨rfl, rfl, rfl, rfl, rfl, rfl, rfl, rfl, rfl, rfl, rfl, rfl, rfl, rfl⟩

@[simp] theorem State.watermarked_keeps (s : State) (mark : Nat) :
    (s.watermarked mark).seq = s.seq ∧ (s.watermarked mark).plans = s.plans ∧
    (s.watermarked mark).timeline = s.timeline ∧ (s.watermarked mark).channels = s.channels ∧
    (s.watermarked mark).filters = s.filters ∧ (s.watermarked mark).monitor = s.monitor ∧
    (s.watermarked mark).media = s.media ∧ (s.watermarked mark).store = s.store ∧
    (s.watermarked mark).startup = s.startup ∧ (s.watermarked mark).link = s.link ∧
    (s.watermarked mark).session = s.session ∧ (s.watermarked mark).choices = s.choices ∧
    (s.watermarked mark).pending = s.pending := by
  simp only [State.watermarked]
  split <;> simp

@[simp] theorem State.writeRecord_keeps (s : State) (op : StoreOp) (size : Nat) (steps : Directory → Bank → List MediaStep) :
    (s.writeRecord op size steps).seq = s.seq ∧ (s.writeRecord op size steps).plans = s.plans ∧
    (s.writeRecord op size steps).timeline = s.timeline ∧ (s.writeRecord op size steps).channels = s.channels ∧
    (s.writeRecord op size steps).filters = s.filters ∧ (s.writeRecord op size steps).captures = s.captures ∧
    (s.writeRecord op size steps).monitor = s.monitor ∧ (s.writeRecord op size steps).media = s.media ∧
    (s.writeRecord op size steps).startup = s.startup ∧ (s.writeRecord op size steps).link = s.link ∧
    (s.writeRecord op size steps).session = s.session ∧ (s.writeRecord op size steps).choices = s.choices ∧
    (s.writeRecord op size steps).pending = s.pending := by
  simp only [State.writeRecord]
  (repeat' split) <;> simp

@[simp] theorem State.setIntake_keeps (s : State) (i : Intake) :
    (s.setIntake i).seq = s.seq ∧ (s.setIntake i).plans = s.plans ∧ (s.setIntake i).timeline = s.timeline ∧
    (s.setIntake i).channels = s.channels ∧ (s.setIntake i).filters = s.filters ∧
    (s.setIntake i).captures = s.captures ∧ (s.setIntake i).monitor = s.monitor ∧ (s.setIntake i).media = s.media ∧
    (s.setIntake i).store = s.store ∧ (s.setIntake i).startup = s.startup ∧ (s.setIntake i).notices = s.notices ∧
    (s.setIntake i).link = s.link ∧ (s.setIntake i).choices = s.choices ∧ (s.setIntake i).pending = s.pending := ⟨rfl, rfl, rfl, rfl, rfl, rfl, rfl, rfl, rfl, rfl, rfl, rfl, rfl, rfl⟩

@[simp] theorem State.openSession_keeps (s : State) (h : Hello) :
    (s.openSession h).seq = s.seq ∧ (s.openSession h).plans = s.plans ∧ (s.openSession h).timeline = s.timeline ∧
    (s.openSession h).channels = s.channels ∧ (s.openSession h).filters = s.filters ∧
    (s.openSession h).captures = s.captures ∧ (s.openSession h).monitor = s.monitor ∧
    (s.openSession h).media = s.media ∧ (s.openSession h).store = s.store ∧ (s.openSession h).startup = s.startup ∧
    (s.openSession h).link = s.link ∧ (s.openSession h).choices = s.choices ∧ (s.openSession h).pending = s.pending := ⟨rfl, rfl, rfl, rfl, rfl, rfl, rfl, rfl, rfl, rfl, rfl, rfl, rfl⟩

@[simp] theorem State.groupCleared_keeps (s : State) (g : Group) :
    (s.groupCleared g).seq = s.seq ∧ (s.groupCleared g).plans = s.plans ∧ (s.groupCleared g).channels = s.channels ∧
    (s.groupCleared g).filters = s.filters ∧ (s.groupCleared g).media = s.media ∧
    (s.groupCleared g).store = s.store ∧ (s.groupCleared g).startup = s.startup ∧
    (s.groupCleared g).notices = s.notices ∧ (s.groupCleared g).session = s.session ∧
    (s.groupCleared g).choices = s.choices ∧ (s.groupCleared g).pending = s.pending := by
  simp only [State.groupCleared]
  split <;> simp

@[simp] theorem State.frameArrives_keeps (s : State) (bytes : List Byte) :
    (s.frameArrives bytes).seq = s.seq ∧ (s.frameArrives bytes).plans = s.plans ∧
    (s.frameArrives bytes).timeline = s.timeline ∧ (s.frameArrives bytes).channels = s.channels ∧
    (s.frameArrives bytes).filters = s.filters ∧ (s.frameArrives bytes).captures = s.captures ∧
    (s.frameArrives bytes).monitor = s.monitor ∧ (s.frameArrives bytes).media = s.media ∧
    (s.frameArrives bytes).store = s.store ∧ (s.frameArrives bytes).startup = s.startup ∧
    (s.frameArrives bytes).notices = s.notices ∧ (s.frameArrives bytes).choices = s.choices ∧
    (s.frameArrives bytes).pending = s.pending := by
  refine ⟨?_, ?_, ?_, ?_, ?_, ?_, ?_, ?_, ?_, ?_, ?_, ?_, ?_⟩
  · simp only [State.frameArrives]; split <;> simp; exact (foldl_keeps State.seq _ (fun _ _ => by simp) _ _).trans (by simp)
  · simp only [State.frameArrives]; split <;> simp; exact (foldl_keeps State.plans _ (fun _ _ => by simp) _ _).trans (by simp)
  · simp only [State.frameArrives]; split <;> simp; exact (foldl_keeps State.timeline _ (fun _ _ => by simp) _ _).trans (by simp)
  · simp only [State.frameArrives]; split <;> simp; exact (foldl_keeps State.channels _ (fun _ _ => by simp) _ _).trans (by simp)
  · simp only [State.frameArrives]; split <;> simp; exact (foldl_keeps State.filters _ (fun _ _ => by simp) _ _).trans (by simp)
  · simp only [State.frameArrives]; split <;> simp; exact (foldl_keeps State.captures _ (fun _ _ => by simp) _ _).trans (by simp)
  · simp only [State.frameArrives]; split <;> simp; exact (foldl_keeps State.monitor _ (fun _ _ => by simp) _ _).trans (by simp)
  · simp only [State.frameArrives]; split <;> simp; exact (foldl_keeps State.media _ (fun _ _ => by simp) _ _).trans (by simp)
  · simp only [State.frameArrives]; split <;> simp; exact (foldl_keeps State.store _ (fun _ _ => by simp) _ _).trans (by simp)
  · simp only [State.frameArrives]; split <;> simp; exact (foldl_keeps State.startup _ (fun _ _ => by simp) _ _).trans (by simp)
  · simp only [State.frameArrives]; split <;> simp; exact (foldl_keeps State.notices _ (fun _ _ => by simp) _ _).trans (by simp)
  · simp only [State.frameArrives]; split <;> simp; exact (foldl_keeps State.choices _ (fun _ _ => by simp) _ _).trans (by simp)
  · simp only [State.frameArrives]; split <;> simp; exact (foldl_keeps State.pending _ (fun _ _ => by simp) _ _).trans (by simp)

@[simp] theorem State.characterArrives_keeps (s : State) (byte : Byte) (lineError : Bool) :
    (s.characterArrives byte lineError).seq = s.seq ∧ (s.characterArrives byte lineError).plans = s.plans ∧
    (s.characterArrives byte lineError).timeline = s.timeline ∧
    (s.characterArrives byte lineError).channels = s.channels ∧
    (s.characterArrives byte lineError).filters = s.filters ∧
    (s.characterArrives byte lineError).captures = s.captures ∧
    (s.characterArrives byte lineError).monitor = s.monitor ∧ (s.characterArrives byte lineError).media = s.media ∧
    (s.characterArrives byte lineError).store = s.store ∧ (s.characterArrives byte lineError).startup = s.startup ∧
    (s.characterArrives byte lineError).notices = s.notices ∧
    (s.characterArrives byte lineError).choices = s.choices ∧ (s.characterArrives byte lineError).pending = s.pending := by
  simp only [State.characterArrives]
  split <;> simp

@[simp] theorem State.closeSession_keeps (s : State) :
    (s.closeSession).seq = s.seq ∧ (s.closeSession).plans = s.plans ∧ (s.closeSession).timeline = s.timeline ∧
    (s.closeSession).channels = s.channels ∧ (s.closeSession).filters = s.filters ∧
    (s.closeSession).captures = s.captures ∧ (s.closeSession).monitor = s.monitor ∧
    (s.closeSession).media = s.media ∧ (s.closeSession).store = s.store ∧ (s.closeSession).startup = s.startup ∧
    (s.closeSession).notices = s.notices ∧ (s.closeSession).link = s.link ∧ (s.closeSession).choices = s.choices ∧
    (s.closeSession).pending = s.pending := ⟨rfl, rfl, rfl, rfl, rfl, rfl, rfl, rfl, rfl, rfl, rfl, rfl, rfl, rfl⟩

@[simp] theorem State.txIdle_keeps (s : State) :
    (s.txIdle).seq = s.seq ∧ (s.txIdle).plans = s.plans ∧ (s.txIdle).timeline = s.timeline ∧
    (s.txIdle).channels = s.channels ∧ (s.txIdle).filters = s.filters ∧ (s.txIdle).captures = s.captures ∧
    (s.txIdle).monitor = s.monitor ∧ (s.txIdle).media = s.media ∧ (s.txIdle).store = s.store ∧
    (s.txIdle).startup = s.startup ∧ (s.txIdle).notices = s.notices ∧ (s.txIdle).session = s.session ∧
    (s.txIdle).choices = s.choices ∧ (s.txIdle).pending = s.pending := ⟨rfl, rfl, rfl, rfl, rfl, rfl, rfl, rfl, rfl, rfl, rfl, rfl, rfl, rfl⟩

@[simp] theorem State.lapses_keeps (s : State) :
    (s.lapses).filters = s.filters ∧ (s.lapses).captures = s.captures ∧ (s.lapses).media = s.media ∧
    (s.lapses).store = s.store ∧ (s.lapses).startup = s.startup ∧ (s.lapses).link = s.link ∧
    (s.lapses).choices = s.choices ∧ (s.lapses).pending = s.pending := by
  simp only [State.lapses]
  split <;> simp

@[simp] theorem State.resends_keeps (s : State) (number : Nat) :
    (s.resends number).seq = s.seq ∧ (s.resends number).plans = s.plans ∧ (s.resends number).timeline = s.timeline ∧
    (s.resends number).channels = s.channels ∧ (s.resends number).filters = s.filters ∧
    (s.resends number).captures = s.captures ∧ (s.resends number).monitor = s.monitor ∧
    (s.resends number).media = s.media ∧ (s.resends number).store = s.store ∧
    (s.resends number).startup = s.startup ∧ (s.resends number).link = s.link ∧
    (s.resends number).session = s.session ∧ (s.resends number).choices = s.choices ∧
    (s.resends number).pending = s.pending := ⟨rfl, rfl, rfl, rfl, rfl, rfl, rfl, rfl, rfl, rfl, rfl, rfl, rfl, rfl⟩

@[simp] theorem State.inputEdges_keeps (s : State) (i : Fin 4) (d : Slope) :
    (s.inputEdges i d).media = s.media ∧ (s.inputEdges i d).store = s.store ∧
    (s.inputEdges i d).startup = s.startup ∧ (s.inputEdges i d).link = s.link ∧
    (s.inputEdges i d).session = s.session ∧ (s.inputEdges i d).pending = s.pending := by
  simp [State.inputEdges]

@[simp] theorem State.settleStop_keeps (s : State) :
    (s.settleStop).seq = s.seq ∧ (s.settleStop).plans = s.plans ∧ (s.settleStop).timeline = s.timeline ∧
    (s.settleStop).channels = s.channels ∧ (s.settleStop).captures = s.captures ∧
    (s.settleStop).monitor = s.monitor ∧ (s.settleStop).media = s.media ∧ (s.settleStop).store = s.store ∧
    (s.settleStop).startup = s.startup ∧ (s.settleStop).notices = s.notices ∧ (s.settleStop).link = s.link ∧
    (s.settleStop).session = s.session ∧ (s.settleStop).choices = s.choices ∧ (s.settleStop).pending = s.pending := ⟨rfl, rfl, rfl, rfl, rfl, rfl, rfl, rfl, rfl, rfl, rfl, rfl, rfl, rfl⟩

@[simp] theorem State.stops_keeps (s : State) :
    (s.stops).captures = s.captures ∧ (s.stops).media = s.media ∧ (s.stops).store = s.store ∧
    (s.stops).startup = s.startup ∧ (s.stops).link = s.link ∧ (s.stops).session = s.session ∧
    (s.stops).choices = s.choices ∧ (s.stops).pending = s.pending := by
  simp only [State.stops]
  split <;> simp

@[simp] theorem State.starves_keeps (s : State) :
    (s.starves).filters = s.filters ∧ (s.starves).captures = s.captures ∧ (s.starves).media = s.media ∧
    (s.starves).store = s.store ∧ (s.starves).startup = s.startup ∧ (s.starves).link = s.link ∧
    (s.starves).session = s.session ∧ (s.starves).choices = s.choices ∧ (s.starves).pending = s.pending := by
  simp only [State.starves]
  split <;> simp

@[simp] theorem State.tick_keeps (s : State) :
    (s.tick).plans = s.plans ∧ (s.tick).timeline = s.timeline ∧ (s.tick).captures = s.captures ∧
    (s.tick).monitor = s.monitor ∧ (s.tick).media = s.media ∧ (s.tick).store = s.store ∧
    (s.tick).startup = s.startup ∧ (s.tick).choices = s.choices ∧ (s.tick).pending = s.pending := ⟨rfl, rfl, rfl, rfl, rfl, rfl, rfl, rfl, rfl⟩

end Sys2Proof.Machine
end

