-- ==== Sys2Proof/Laws/Notices.lean ====
section
/-! SUPPORT. The notice queue: what a raise can do, the number it issues, and what sending a frame leaves alike. -/

namespace Sys2Proof.Machine

/-! ## Raising, and queues that are alike (R161 to R164) -/

/-- A raise merges into an entry that is present or adds one, and does nothing else (R161 to R163). -/
theorem Notices.raise_cases (q : Notices) (o : Occurrence) :
    (∃ n ∈ q.entries, ∃ content, q.raise o = q.merge n content) ∨
      ∃ content merges, q.raise o = q.add content merges := by
  have lose : (∃ n ∈ q.entries, ∃ content, q.lose o = q.merge n content) ∨
      ∃ content merges, q.lose o = q.add content merges := by
    unfold Notices.lose
    split
    · rename_i n hn
      exact .inl ⟨n, List.mem_of_find?_eq_some hn, _, rfl⟩
    · exact .inr ⟨_, _, rfl⟩
  unfold Notices.raise
  split
  · split
    · rename_i n hn
      exact .inl ⟨n, List.mem_of_find?_eq_some hn, _, rfl⟩
    · split
      · exact .inr ⟨_, _, rfl⟩
      · exact lose
  · split
    · exact .inr ⟨_, _, rfl⟩
    · exact lose

/-- Likeness of queues is an equivalence. -/
theorem Notices.like.refl (q : Notices) : q.like q := ⟨rfl, rfl, rfl⟩

theorem Notices.like.symm {q q' : Notices} (h : q'.like q) : q.like q' := ⟨h.1.symm, h.2.1.symm, h.2.2.symm⟩

theorem Notices.like.trans {q q' q'' : Notices} (h : q''.like q') (h' : q'.like q) : q''.like q :=
  ⟨h.1.trans h'.1, h.2.1.trans h'.2.1, h.2.2.trans h'.2.2⟩

/-- Letting the arbiter choose changes nothing of a queue but the marks of sending (R164). -/
theorem State.arbitrate_notices (s : State) : s.arbitrate.notices.like s.notices := by
  unfold State.arbitrate State.beginNotice
  split
  · exact .refl _
  · split
    · exact .refl _
    · split
      · exact .refl _
      · refine ⟨?_, rfl, rfl⟩
        simp only [Notices.change, List.map_map]
        congr 1
        funext n
        simp only [Function.comp]
        split <;> rfl

/-! ## Numbers (R160) -/

theorem numberAfter_range (n : Nat) : 1 ≤ numberAfter n ∧ numberAfter n ≤ 65535 := by
  unfold numberAfter
  split <;> omega

/-- The number after one in range, round from 65,535 to 1. -/
theorem numberAfter_mod {n : Nat} (h : n ≤ 65535) : numberAfter n = n % 65535 + 1 := by
  unfold numberAfter
  split <;> omega

/-- The search for a number skips numbers that are in use, and stops at one that is not or at its last skip. -/
theorem freshFrom_spec (used : List Nat) (k n : Nat) (h : 1 ≤ n) (h' : n ≤ 65535) :
    ∃ skipped, skipped ≤ k ∧ freshFrom used k n = (n - 1 + skipped) % 65535 + 1 ∧
      (∀ j, j < skipped → (n - 1 + j) % 65535 + 1 ∈ used) ∧
      (skipped < k → (n - 1 + skipped) % 65535 + 1 ∉ used) := by
  have first : (n - 1 + 0) % 65535 + 1 = n := by omega
  have next : ∀ j, (numberAfter n - 1 + j) % 65535 + 1 = (n - 1 + (j + 1)) % 65535 + 1 := by
    intro j
    rw [numberAfter_mod h']
    omega
  induction k generalizing n with
  | zero => exact ⟨0, le_refl _, first.symm, fun j hj => absurd hj (by omega), fun hk => absurd hk (by omega)⟩
  | succ k ih =>
    unfold freshFrom
    by_cases hn : n ∈ used
    · obtain ⟨hr, hr'⟩ := numberAfter_range n
      obtain ⟨skipped, h1, h2, h3, h4⟩ := ih (numberAfter n) hr hr' (by omega) (by
        intro j
        rw [numberAfter_mod hr']
        omega)
      refine ⟨skipped + 1, by omega, by rw [if_pos hn, h2, next], ?_, fun hk => next skipped ▸ h4 (by omega)⟩
      intro j hj
      cases j with
      | zero =>
        rw [first]
        exact hn
      | succ j => exact next j ▸ h3 j (by omega)
    · refine ⟨0, by omega, by rw [if_neg hn, first], fun j hj => absurd hj (by omega), fun _ => ?_⟩
      rw [first]
      exact hn

/-- A queue with its next number in range and few entries issues its fresh number (R160). -/
theorem Notices.issues_fresh (q : Notices) (h : 1 ≤ q.next) (h' : q.next ≤ 65535) (few : q.entries.length < 65535) :
    q.issues q.fresh := by
  obtain ⟨skipped, h1, h2, h3, h4⟩ := freshFrom_spec (q.entries.map Notice.number) q.entries.length q.next h h'
  have free : (q.next - 1 + skipped) % 65535 + 1 ∉ q.entries.map Notice.number := by
    by_cases hs : skipped < q.entries.length
    · exact h4 hs
    · intro hm
      have sub : (List.range (skipped + 1)).map (fun j => (q.next - 1 + j) % 65535 + 1) ⊆
          q.entries.map Notice.number := by
        intro x hx
        obtain ⟨j, hj, rfl⟩ := List.mem_map.mp hx
        have hj' : j ≤ skipped := by simpa [Nat.lt_succ_iff] using hj
        rcases Nat.lt_or_eq_of_le hj' with hj' | rfl
        · exact h3 j hj'
        · exact hm
      have nodup : ((List.range (skipped + 1)).map fun j => (q.next - 1 + j) % 65535 + 1).Nodup := by
        refine List.Nodup.map_on (fun x hx y hy e => ?_) List.nodup_range
        simp only [List.mem_range] at hx hy
        omega
      have := (nodup.subperm sub).length_le
      simp only [List.length_map, List.length_range] at this
      omega
  refine ⟨skipped, h2, fun n hn e => ?_, fun j hj => ?_⟩
  · exact free (List.mem_map.mpr ⟨n, hn, e.trans h2⟩)
  · obtain ⟨n, hn, e⟩ := List.mem_map.mp (h3 j hj)
    exact ⟨n, hn, e⟩

/-- A number issued lies in range and is carried by no entry. -/
theorem Notices.issues.range {q : Notices} {k : Nat} (h : q.issues k) : 1 ≤ k ∧ k ≤ 65535 := by
  obtain ⟨_, rfl, -⟩ := h
  omega

/-- A queue in form has at most 17 entries (R159). -/
theorem Notices.ok.length {q : Notices} (h : q.ok) : q.entries.length ≤ 17 := by
  obtain ⟨-, -, -, -, h1, h2, -⟩ := h
  have := List.length_eq_length_filter_add (l := q.entries) Notice.isLoss
  omega

end Sys2Proof.Machine
end

