-- ==== Sys2Proof/Laws/Requests.lean ====
section
/-! SUPPORT. What taking a request can do: the reply is in the outbox or on the line, and nothing else changes but what the
owner does. -/

namespace Sys2Proof.Machine

/-! ## Agreement -/

theorem State.agrees_refl (s : State) : s.agrees s := rfl

theorem State.agrees.symm {s t : State} (h : s.agrees t) : t.agrees s := Eq.symm h

theorem State.agrees.trans {s t u : State} (h : s.agrees t) (h' : t.agrees u) : s.agrees u := Eq.trans h h'

/-- Beginning a notice's frame changes its marks alone. -/
theorem Notices.change_unmarked (q : Notices) (number : Nat) :
    (q.change number Notice.begun).entries.map Notice.unmarked = q.entries.map Notice.unmarked := by
  simp only [Notices.change, List.map_map]
  congr 1
  funext n
  simp only [Function.comp]
  split <;> rfl

theorem State.beginNotice_agrees (s : State) : s.beginNotice.agrees s := by
  unfold State.beginNotice
  split
  · rfl
  · simp only [State.agrees, State.quiet, Notices.change_unmarked]
    rfl

theorem State.arbitrate_agrees (s : State) : s.arbitrate.agrees s := by
  unfold State.arbitrate
  split
  · rfl
  · split
    · rfl
    · exact s.beginNotice_agrees

theorem State.orderNotice_agrees (s : State) : s.orderNotice.agrees s := by
  unfold State.orderNotice
  split
  · dsimp only
    split
    · exact (State.beginNotice_agrees _).trans rfl
    · rfl
  · rfl

theorem State.cleared_agrees (s : State) : s.cleared.agrees s := rfl

theorem State.uncache_agrees (s : State) (code : Nat) (q : Req) : (s.uncache code q).agrees s := by
  unfold State.uncache
  split <;> rfl

theorem State.cacheReply_agrees (s : State) (code : Nat) (q : Req) (r : Reply) : (s.cacheReply code q r).agrees s := by
  unfold State.cacheReply
  split <;> rfl

theorem State.putReply_agrees (s : State) (r : Reply) : (s.putReply r).agrees s := rfl

theorem State.send_agrees (s : State) (r : Reply) (first : Bool) : (s.send r first).agrees s := by
  unfold State.send
  refine (State.arbitrate_agrees _).trans ((State.putReply_agrees _ r).trans ?_)
  split
  · rfl
  · exact s.orderNotice_agrees

/-- Two agreeing states have the same parts outside the traffic of replies. -/
theorem State.agrees.parts {t u : State} (h : t.agrees u) :
    t.seq = u.seq ∧ t.plans = u.plans ∧ t.timeline = u.timeline ∧ t.channels = u.channels ∧ t.filters = u.filters ∧
      t.captures = u.captures ∧ t.monitor = u.monitor ∧ t.media = u.media ∧ t.store = u.store ∧
      t.startup = u.startup ∧ t.pending = u.pending := by
  have e {α : Type} (g : State → α) : g t.quiet = g u.quiet := congrArg g h
  exact
    ⟨e State.seq,
      e State.plans,
      e State.timeline,
      e State.channels,
      e State.filters,
      e State.captures,
      e State.monitor,
      e State.media,
      e State.store,
      e State.startup,
      e State.pending⟩

/-! ## Sending a reply (R141, R143) -/

@[simp] theorem State.beginNotice_waiting (s : State) : s.beginNotice.link.waiting = s.link.waiting := by
  unfold State.beginNotice
  split <;> rfl

@[simp] theorem State.beginNotice_outbox (s : State) : s.beginNotice.link.outbox = s.link.outbox := by
  unfold State.beginNotice
  split <;> rfl

@[simp] theorem State.arbitrate_waiting (s : State) : s.arbitrate.link.waiting = s.link.waiting := by
  unfold State.arbitrate
  split
  · rfl
  · split <;> simp

@[simp] theorem State.orderNotice_outbox (s : State) : s.orderNotice.link.outbox = s.link.outbox := by
  unfold State.orderNotice
  split
  · dsimp only
    split <;> simp
  · rfl

@[simp] theorem State.orderNotice_waiting (s : State) : s.orderNotice.link.waiting = s.link.waiting := by
  unfold State.orderNotice
  split
  · dsimp only
    split <;> simp
  · rfl

@[simp] theorem State.send_waiting (s : State) (r : Reply) (first : Bool) :
    (s.send r first).link.waiting = s.link.waiting := by
  unfold State.send
  rw [State.arbitrate_waiting]
  cases first <;> simp [State.putReply]

/-- A reply that stands last in the outbox is there, or on the line, once the arbiter has chosen. -/
theorem State.arbitrate_replied (s : State) (r : Reply) (h : r ∈ s.link.outbox) : s.arbitrate.replied r := by
  unfold State.arbitrate State.replied
  split
  · exact .inl h
  · split
    · rename_i x rest hx
      rw [hx] at h
      rcases List.mem_cons.mp h with rfl | h
      · exact .inr rfl
      · exact .inl h
    · rename_i hx
      rw [hx] at h
      simp at h

theorem State.send_replied (s : State) (r : Reply) (first : Bool) : (s.send r first).replied r := by
  unfold State.send
  apply State.arbitrate_replied
  simp [State.putReply]

/-! ## Taking a request (R147, R148) -/

/-- The state an owner acts on: the frame taken, and a cached reply to another request of this tag removed (R150). -/
def State.taken (s : State) (code : Nat) (q : Req) : State := s.cleared.uncache code q

@[simp] theorem State.taken_keeps (s : State) (code : Nat) (q : Req) :
    (s.taken code q).seq = s.seq ∧ (s.taken code q).plans = s.plans ∧ (s.taken code q).timeline = s.timeline ∧
    (s.taken code q).channels = s.channels ∧ (s.taken code q).filters = s.filters ∧
    (s.taken code q).captures = s.captures ∧ (s.taken code q).monitor = s.monitor ∧
    (s.taken code q).media = s.media ∧ (s.taken code q).store = s.store ∧ (s.taken code q).startup = s.startup ∧
    (s.taken code q).notices = s.notices ∧ (s.taken code q).choices = s.choices ∧
    (s.taken code q).pending = s.pending ∧ (s.taken code q).link = { s.link with waiting := none } := by
  simp only [State.taken, State.uncache_keeps, State.cleared, and_self]

@[simp] theorem State.taken_session (s : State) (code : Nat) (q : Req) :
    (s.taken code q).session.isOpen = s.session.isOpen ∧ (s.taken code q).session.resend = s.session.resend ∧
    (s.taken code q).session.lapseTime = s.session.lapseTime ∧
    (s.taken code q).session.lapsePolicy = s.session.lapsePolicy ∧
    (s.taken code q).session.lapseTimer = s.session.lapseTimer ∧
    (s.taken code q).session.intake = s.session.intake := by
  simp only [State.taken, State.uncache, State.cleared]
  split <;> simp

@[simp] theorem State.taken_shared (s : State) (code : Nat) (q : Req) :
    (s.taken code q).stopAsserted = s.stopAsserted ∧ (s.taken code q).staged = s.staged ∧
      (s.taken code q).block = s.block := by
  simp [State.stopAsserted, State.staged, State.block]

theorem State.taken_agrees (s : State) (code : Nat) (q : Req) : (s.taken code q).agrees s :=
  (State.uncache_agrees _ _ _).trans s.cleared_agrees

@[simp] theorem State.cacheReply_waiting (s : State) (code : Nat) (q : Req) (r : Reply) :
    (s.cacheReply code q r).link.waiting = s.link.waiting := by simp

/-- The reply of an answer agrees with the state the answer left, and its reply is on its way (R149). -/
theorem Answer.reply_spec (a : Answer) (code : Nat) (q : Req) :
    (a.reply code q).agrees a.state ∧ (a.reply code q).replied (replyTo code q a.status a.payload) ∧
      (a.reply code q).link.waiting = a.state.link.waiting := by
  unfold Answer.reply
  exact ⟨(State.send_agrees _ _ _).trans (State.cacheReply_agrees _ _ _ _), State.send_replied _ _ _, by simp⟩

/-- A request that is ready and whose bytes form its parameters is answered by its owner (R148). -/
theorem requestStep_ready {π : Type} {code : Nat} {read : List Byte → Option π} {owner : π → State → Answer} {q : Req}
    {s : State} {p : π} (h : s.ready code q) (hp : read q.params = some p) :
    requestStep code read owner q s = .next ((owner p (s.taken code q)).reply code q) := by
  obtain ⟨hl, hc, ho, ht, hw, hn⟩ := h
  have hn' : s.cleared.cachedReply code q = none := hn
  unfold requestStep State.takeRequest
  rw [if_pos hl, if_pos (show _ ∨ _ from hw), if_pos ht]
  unfold State.examine
  simp [State.cleared, hc, ho]
  have : State.cachedReply { s with link := { s.link with waiting := none } } code q = none := hn
  rw [this]
  simp [executeWith, hp]
  rfl

/-- HELLO and STATUS are answered by the Request Handler at any stage after the reset, session or none (R148). -/
theorem requestStep_always {π : Type} {code : Nat} {read : List Byte → Option π} {owner : π → State → Answer} {q : Req}
    {s : State} {p : π} (hl : s.live = true) (ht : s.canTake = true) (hw : s.admits code q)
    (ha : alwaysTaken code = true) (hp : read q.params = some p) :
    requestStep code read owner q s = .next ((owner p s.cleared).reply code q) := by
  unfold requestStep State.takeRequest
  rw [if_pos hl, if_pos (show _ ∨ _ from hw), if_pos ht]
  simp [State.examine, ha, State.cachedReply, State.uncache, executeWith, hp]

/-- What HELLO's and STATUS's commands answer, from what the Request Handler makes of them. -/
theorem requestStep_always_answers {π : Type} {code : Nat} {read : List Byte → Option π} {owner : π → State → Answer}
    {q : Req} {s : State} {p : π} {c : Instr} {u : State} {status : Status} {payload : List Byte}
    (hc : exec c s = requestStep code read owner q s) (hl : s.live = true) (ht : s.canTake = true)
    (hw : s.admits code q) (ha : alwaysTaken code = true) (hp : read q.params = some p)
    (hu : (owner p s.cleared).state.agrees u) (hs : (owner p s.cleared).status = status)
    (hb : (owner p s.cleared).payload = payload) (hn : (owner p s.cleared).state.link.waiting = none) :
    Answers c s code q u status payload := by
  subst hs hb
  obtain ⟨h1, h2, h3⟩ := (owner p s.cleared).reply_spec code q
  exact ⟨_, hc.trans (requestStep_always hl ht hw ha hp), h1.trans hu, h2, h3.trans hn⟩

/-- What a ready request's command answers, from what its owner answers. -/
theorem requestStep_answers {π : Type} {code : Nat} {read : List Byte → Option π} {owner : π → State → Answer}
    {q : Req} {s : State} {p : π} {c : Instr} {u : State} {status : Status} {payload : List Byte}
    (hc : exec c s = requestStep code read owner q s) (h : s.ready code q) (hp : read q.params = some p)
    (hu : (owner p (s.taken code q)).state.agrees u) (hs : (owner p (s.taken code q)).status = status)
    (hb : (owner p (s.taken code q)).payload = payload)
    (hw : (owner p (s.taken code q)).state.link.waiting = none) : Answers c s code q u status payload := by
  subst hs hb
  obtain ⟨h1, h2, h3⟩ := (owner p (s.taken code q)).reply_spec code q
  exact ⟨_, hc.trans (requestStep_ready h hp), h1.trans hu, h2, h3.trans hw⟩

/-- Every request of the catalogue is taken, examined and answered by one operation (R148, R171). -/
theorem requestOf_step {code : Nat} {q : Req} {c : Instr} (h : requestOf code q = some c) :
    ∃ (π : Type) (read : List Byte → Option π) (owner : π → State → Answer),
      ∀ s, exec c s = requestStep code read owner q s := by
  unfold requestOf at h
  split at h <;> first | (cases h; exact ⟨_, _, _, fun _ => rfl⟩) | cases h

end Sys2Proof.Machine
end

