-- ==== Sys2Proof/Laws/Row.lean ====
section
/-! SUPPORT. Reading a row after each of its operations. -/

namespace Sys2Proof.Machine

variable {n : Nat} {α β : Type}

theorem Row.ext_get {r r' : Row n α} (h : ∀ i, r.get i = r'.get i) : r = r' := by
  obtain ⟨c, hc⟩ := r
  obtain ⟨c', hc'⟩ := r'
  congr 1
  apply List.ext_getElem (hc.trans hc'.symm)
  intro k hk _
  exact h ⟨k, hc ▸ hk⟩

@[simp] theorem Row.get_tab (f : Fin n → α) (i : Fin n) : (Row.tab f).get i = f i := by
  simp [Row.get, Row.tab]

@[simp] theorem Row.get_fill (v : α) (i : Fin n) : (Row.fill n v).get i = v := by
  simp [Row.get, Row.fill]

@[simp] theorem Row.get_set_self (r : Row n α) (i : Fin n) (v : α) : (r.set i v).get i = v := by
  simp [Row.get, Row.set]

theorem Row.get_set_ne (r : Row n α) {i j : Fin n} (v : α) (h : j ≠ i) : (r.set i v).get j = r.get j := by
  have : i.val ≠ j.val := fun e => h (Fin.ext e.symm)
  simp [Row.get, Row.set, List.getElem_set_ne this]

theorem Row.get_set (r : Row n α) (i j : Fin n) (v : α) :
    (r.set i v).get j = if j = i then v else r.get j := by
  by_cases h : j = i
  · subst h; simp
  · simp [h, Row.get_set_ne]

@[simp] theorem Row.set_set (r : Row n α) (i : Fin n) (v w : α) : (r.set i v).set i w = r.set i w := by
  simp [Row.set]

/-- Writing back what an index holds changes nothing. -/
theorem Row.set_get (r : Row n α) (i : Fin n) : r.set i (r.get i) = r :=
  Row.ext_get fun j => by
    rw [Row.get_set]
    split
    · subst_vars; rfl
    · rfl

theorem Row.get_modify (r : Row n α) (i j : Fin n) (f : α → α) :
    (r.modify i f).get j = if j = i then f (r.get j) else r.get j := by
  unfold Row.modify
  rw [Row.get_set]
  split
  · subst_vars; rfl
  · rfl

@[simp] theorem Row.get_modify_self (r : Row n α) (i : Fin n) (f : α → α) : (r.modify i f).get i = f (r.get i) := by
  simp [Row.get_modify]

@[simp] theorem Row.get_mapIdx (r : Row n α) (f : Fin n → α → β) (i : Fin n) :
    (r.mapIdx f).get i = f i (r.get i) := by
  simp [Row.mapIdx]

end Sys2Proof.Machine
end

