-- ==== Sys2Proof/Laws/Cycles.lean ====
section
/-! SUPPORT. What a swap, a halt and a cycle start can do, and the counters of windows. -/

namespace Sys2Proof.Machine

/-! ## Agreement -/

/-- What agreement says of the notices. -/
theorem State.agrees.notices {t u : State} (h : t.agrees u) : t.notices.like u.notices := by
  have e {α : Type} (g : State → α) : g t.quiet = g u.quiet := congrArg g h
  exact ⟨e fun s => s.notices.entries, e fun s => s.notices.next, e fun s => s.notices.resend⟩

/-- What agreement says of the link and the session. -/
theorem State.agrees.link {t u : State} (h : t.agrees u) : LinkKept u t := by
  have e {α : Type} (g : State → α) : g t.quiet = g u.quiet := congrArg g h
  exact ⟨e fun s => s.link.rate, e fun s => s.link.asm, e fun s => s.link.counters, e State.session, e State.pending⟩

/-! ## The swap (R47, R48) -/

/-- The parts of a pending commit's swap (R47). -/
theorem State.swapPending_parts (s : State) (cycle : Option W32) :
    s.plans.handedOver (s.swapPending cycle).plans cycle ∧
    (s.swapPending cycle).timeline.edges =
      (if s.plans.commitPending = true then s.plans.stagedTimeline else s.timeline.edges) ∧
    (s.swapPending cycle).timeline.next = (if s.plans.commitPending = true then 0 else s.timeline.next) ∧
    (s.swapPending cycle).timeline.marks = (if s.plans.commitPending = true then [] else s.timeline.marks) ∧
    (s.swapPending cycle).timeline.pulses = s.timeline.pulses ∧
    (s.swapPending cycle).timeline.tallies = s.timeline.tallies ∧
    (s.swapPending cycle).monitor.inProgress = s.monitor.inProgress ∧
    (s.swapPending cycle).monitor.tallies = s.monitor.tallies ∧
    (s.swapPending cycle).monitor.table =
      (if s.plans.commitPending = true then s.plans.staged.windows.map fun w => ⟨w, .pending, none⟩
        else s.monitor.table) := by
  by_cases h : s.plans.commitPending = true <;>
    simp [State.swapPending, PlanBuffers.handedOver, h, State.swap, State.raise, State.takeChannelBlock,
      Timeline.replaced, Monitor.withTable]

/-- What a swap's record makes of a channel (R63). -/
theorem Channel.swapped_spec (cfg : ChannelCfg) (c : Channel) : c.tookBlock cfg (c.swapped cfg) := by
  refine ⟨fun hs hu => if_pos ⟨hs, hu⟩, fun hd hh => ?_, fun hd hh => ?_⟩ <;>
    rw [Channel.swapped, if_neg (by tauto), hh]
  cases cfg.use <;> rfl

/-- A pending commit's swap hands each channel its record, and no commit none (R63). -/
theorem State.swapPending_block (s : State) (cycle : Option W32) (i : Fin 8) :
    s.plans.handsBlock i (s.channels.get i) ((s.swapPending cycle).channels.get i) := by
  unfold PlanBuffers.handsBlock
  by_cases h : s.plans.commitPending = true <;>
    simp [State.swapPending, h, State.swap, State.raise, State.takeChannelBlock, Channel.swapped_spec]

/-! ## The counters of windows (R94, R96, R97) -/

/-- Counting window ids leaves the table and the cycle in progress. -/
@[simp] theorem Monitor.countAll_keeps (m : Monitor) (ids : List Nat) (f : WindowTally → WindowTally) :
    (m.countAll ids f).table = m.table ∧ (m.countAll ids f).inProgress = m.inProgress := by
  unfold Monitor.countAll
  induction ids generalizing m with
  | nil => exact ⟨rfl, rfl⟩
  | cons id ids ih =>
    obtain ⟨h1, h2⟩ := ih (m.countAt id f)
    refine ⟨h1.trans ?_, h2.trans ?_⟩ <;> (unfold Monitor.countAt; split <;> rfl)

theorem Monitor.countAt_tallies (m : Monitor) (id : Nat) (f : WindowTally → WindowTally) (k : Fin 15) :
    (m.countAt id f).tallies.get k = if id = k.val + 1 then f (m.tallies.get k) else m.tallies.get k := by
  have hk := k.isLt
  unfold Monitor.countAt tallyIndex
  split
  · rename_i j hj
    split at hj
    · cases hj
      simp only [Row.get_modify, Fin.ext_iff]
      by_cases h : id = k.val + 1
      · rw [if_pos h, if_pos (by omega)]
      · rw [if_neg h, if_neg (by omega)]
    · cases hj
  · rename_i hj
    split at hj
    · cases hj
    · rw [if_neg (by omega)]

/-- Counting distinct window ids counts each of 1 to 15 among them once. -/
theorem Monitor.countAll_tallies (ids : List Nat) (h : ids.Nodup) (f : WindowTally → WindowTally) (k : Fin 15)
    (m : Monitor) :
    (m.countAll ids f).tallies.get k = if k.val + 1 ∈ ids then f (m.tallies.get k) else m.tallies.get k := by
  unfold Monitor.countAll
  induction ids generalizing m with
  | nil => simp
  | cons id ids ih =>
    obtain ⟨h1, h2⟩ := List.nodup_cons.mp h
    rw [List.foldl_cons, ih h2, Monitor.countAt_tallies]
    by_cases hid : id = k.val + 1
    · subst hid
      simp [h1]
    · simp [hid, Ne.symm hid]

/-- A close changes the monitor and raises the misses in the table's order (R96). -/
theorem State.closeWindows_eq (s : State) (phase : Nat) :
    s.closeWindows phase =
      { s with
        monitor := s.monitor.close phase
        notices :=
          (s.monitor.missing phase).foldl (fun q w => q.raise (.merging (.windowMissed w.id) s.seq.cycle)) s.notices } := by
  have fold : ∀ (ws : List Window) (t : State),
      ws.foldl (fun acc w => acc.raise (.merging (.windowMissed w.id) s.seq.cycle)) t =
        { t with
          notices := ws.foldl (fun q w => q.raise (.merging (.windowMissed w.id) s.seq.cycle)) t.notices } := by
    intro ws
    induction ws with
    | nil => exact fun _ => rfl
    | cons w ws ih => exact fun t => (ih _).trans rfl
  exact fold _ _

/-! ## Entering HALTED (R16) -/

theorem Monitor.abandon_inProgress (m : Monitor) : m.abandon.inProgress = false := by
  unfold Monitor.abandon
  split
  · exact (Monitor.countAll_keeps _ _ _).2
  · rename_i h
    simpa using h

/-- A channel after truncation and the halt claim: FREE, it is INACTIVE; HELD, as it was (R58, R70). -/
theorem Channel.halt_spec (c : Channel) (p : Option PulseId) :
    (c.truncated p).halted = if c.hold = .free then { c with level := .inactive } else c := by
  obtain ⟨_, _, _, _, hold, _⟩ := c
  cases hold <;> cases p <;> simp [Channel.truncated, Channel.halted]

/-- A halt up to its stage 7: everything but the pending commit and the notices (R16). -/
def State.haltStages (s : State) (record : HaltRecord) : State :=
  let quiet := ({ s with seq := s.seq.stop record } : State).truncate.onChannels Channel.halted
  { quiet with monitor := quiet.monitor.abandon }

theorem State.enterHalted_eq (s : State) (cause : HaltCause) (phase : Nat) (subject : Option Nat) :
    s.enterHalted cause phase subject =
      ((s.haltStages ⟨cause, s.seq.cycle, phase, subject⟩).swapPending none).raise
        (.report (.halted ⟨cause, s.seq.cycle, phase, subject⟩)) := rfl

theorem State.haltStages_channel (s : State) (record : HaltRecord) (i : Fin 8) :
    (s.haltStages record).channels.get i = ((s.channels.get i).truncated (s.timeline.pulses.get i)).halted := by
  simp [State.haltStages, State.onChannels, State.truncate]

/-- Entering HALTED does all that R16 lists. -/
theorem State.enterHalted_spec (s : State) (cause : HaltCause) (phase : Nat) (subject : Option Nat) :
    HaltedFrom s (s.enterHalted cause phase subject) cause phase subject := by
  obtain ⟨h1, h2, h2n, h2m, h3, h4, h5, h6, h7⟩ :=
    (s.haltStages ⟨cause, s.seq.cycle, phase, subject⟩).swapPending_parts none
  have hb := (s.haltStages ⟨cause, s.seq.cycle, phase, subject⟩).swapPending_block none
  have hp : (s.haltStages ⟨cause, s.seq.cycle, phase, subject⟩).plans = s.plans := by simp [State.haltStages]
  rw [hp] at h1 h2 h2n h2m h7
  rw [State.enterHalted_eq]
  refine ⟨?_, ?_, ?_, ?_, ?_, ?_, ?_, ?_, h1, ?_, ?_, ?_, ?_, ?_, ?_⟩
  · simp [Sequencer.haltedAs, State.haltStages, Sequencer.stop]
  · intro i
    simp only [State.raise_keeps, h3]
    simp [State.haltStages, State.truncate]
  · intro i
    simp only [State.raise_keeps, h4]
    simp [State.haltStages, State.truncate, ChannelTally.truncate]
  · intro i
    simpa only [State.raise_keeps, hp, State.haltStages_channel, Channel.halt_spec] using hb i
  · simp only [State.raise_keeps, h5]
    exact Monitor.abandon_inProgress _
  · simp only [State.raise_keeps, h6]
    simp [State.haltStages]
  · intro hc
    simp only [State.raise_keeps, h2, h2n, h2m, h7, hc]
    simp [State.haltStages, State.truncate]
  · intro hc
    simp [State.raise_keeps, h2, h2n, h2m, h7, hc]
  · by_cases hc : s.plans.commitPending = true <;>
      simp [State.haltStages, State.swapPending, State.swap, State.raise, State.truncate, hc, Notices.like.refl]
  all_goals simp [State.haltStages]

/-! ## A cycle start (R5) -/

/-- Taking an edge is what the tests of R53 make of it. -/
theorem State.takeEdge_spec (s : State) (e : TEdge) : s.edgeTaken e (s.takeEdge e) := by
  have hdiv : (∃ v, e.every = some v ∧ s.seq.cycle.toNat % v.divider ≠ v.remainder) ↔
      e.dividedOut s.seq.cycle = true := by
    unfold TEdge.dividedOut
    cases e.every <;> simp
  have hgate : (∀ g, e.gate = some g → (s.filters.inputs.get g.input).level = g.level) ↔
      e.gateUnmet s.filters = false := by
    unfold TEdge.gateUnmet
    cases e.gate <;> simp
  have hend : pulseAfter e .suppressed (s.timeline.pulses.get e.channel) =
      if e.role = .pulseEnd ∧ s.timeline.pulses.get e.channel = some ⟨e.entry, e.occurrence⟩ then none
      else s.timeline.pulses.get e.channel := by
    by_cases hp : s.timeline.pulses.get e.channel = some ⟨e.entry, e.occurrence⟩ <;>
      cases hr : e.role <;> simp [pulseAfter, hr, TEdge.pulseId, hp]
  unfold State.edgeTaken
  simp only [hdiv, hgate]
  refine ⟨fun h => ?_, fun h1 h2 h3 => ?_, fun h1 h2 h3 => ?_, fun h1 h2 h3 => ?_, fun h1 h2 h3 => ?_⟩
  · have hv : s.verdict e = .skipped := by
      rcases h with h | ⟨h, h'⟩ <;> simp [State.verdict, TEdge.pulseId, h]
      simp [h']
    simp [State.takeEdge, hv, Timeline.take, marksAfter, Verdict.mark, Row.modify, Verdict.count, Row.set_get, pulseAfter]
  · have hv : s.verdict e = .suppressed := by simp [State.verdict, TEdge.pulseId, h1, h2, h3]
    simp [State.takeEdge, hv, Timeline.take, marksAfter, Row.modify, Verdict.count, Row.set_get, hend, h2]
  · have hv : s.verdict e = .gatedOff := by simp [State.verdict, TEdge.pulseId, h1, h2, h3]
    cases hr : e.role <;>
      simp_all [State.takeEdge, Timeline.take, marksAfter, Verdict.mark, Row.modify, Verdict.count, Row.set_get,
        pulseAfter, TEdge.pulseId]
  · have hv : s.verdict e = .suppressed := by
      rcases h2 with ⟨hr, hg⟩ | ⟨hr, hm⟩
      · simp [State.verdict, h1, hr, hg, h3]
      · simp [State.verdict, TEdge.pulseId, h1, hr, hm, h3]
    cases hr : e.role <;>
      simp [State.takeEdge, hv, Timeline.take, marksAfter, Verdict.mark, Row.modify, Verdict.count, Row.set_get,
        hend, hr, TEdge.pulseId]
  · have hv : s.verdict e = .applied := by
      rcases h2 with ⟨hr, hg⟩ | ⟨hr, hm⟩
      · simp [State.verdict, h1, hr, hg, h3]
      · simp [State.verdict, TEdge.pulseId, h1, hr, hm, h3]
    have hp : pulseAfter e .applied (s.timeline.pulses.get e.channel) =
        if e.role = .pulseStart then some ⟨e.entry, e.occurrence⟩
        else if e.role = .pulseEnd ∧ s.timeline.pulses.get e.channel = some ⟨e.entry, e.occurrence⟩ then none
        else s.timeline.pulses.get e.channel := by
      by_cases hp : s.timeline.pulses.get e.channel = some ⟨e.entry, e.occurrence⟩ <;>
        cases hr : e.role <;> simp [pulseAfter, hr, TEdge.pulseId, hp]
    cases hch : e.change <;> cases hl : (s.channels.get e.channel).level <;>
      simp [State.takeEdge, hv, State.claim, State.onChannel, State.stopAsserted, Timeline.take, marksAfter,
        Verdict.mark, Row.modify, Verdict.count, hp, Change.onto, hch, hl]

/-- Taking edges in turn is what each of them makes of what the one before left (R52). -/
theorem State.takeEdges_spec (l : List TEdge) (s : State) : EdgesTaken l s (l.foldl State.takeEdge s) := by
  induction l generalizing s with
  | nil => rfl
  | cons e l ih => exact ⟨_, s.takeEdge_spec e, ih _⟩

/-- What edges make of the channels and the timeline rests on these, the sequencer and the filters alone. -/
theorem State.takeEdges_same (l : List TEdge) (s t : State) (hs : s.seq = t.seq) (hf : s.filters = t.filters)
    (hc : s.channels = t.channels) (ht : s.timeline = t.timeline) :
    (l.foldl State.takeEdge s).channels = (l.foldl State.takeEdge t).channels ∧
      (l.foldl State.takeEdge s).timeline = (l.foldl State.takeEdge t).timeline := by
  induction l generalizing s t with
  | nil => exact ⟨hc, ht⟩
  | cons e l ih =>
    have hv : s.verdict e = t.verdict e := by simp only [State.verdict, hs, hf, hc, ht]
    apply ih <;> simp only [State.takeEdge, hv] <;> split <;>
      simp [State.claim, State.onChannel, State.stopAsserted, hs, hf, hc, ht]

/-- Taking one edge moves the position by one and leaves the list of edges. -/
theorem State.takeEdge_timeline (s : State) (e : TEdge) :
    (s.takeEdge e).timeline.edges = s.timeline.edges ∧ (s.takeEdge e).timeline.next = s.timeline.next + 1 := by
  simp only [State.takeEdge]
  split <;> simp [Timeline.take]

theorem State.takeEdges_timeline (l : List TEdge) (s : State) :
    (l.foldl State.takeEdge s).timeline.edges = s.timeline.edges ∧
      (l.foldl State.takeEdge s).timeline.next = s.timeline.next + l.length := by
  induction l generalizing s with
  | nil => exact ⟨rfl, rfl⟩
  | cons e l ih =>
    obtain ⟨h1, h2⟩ := ih (s.takeEdge e)
    obtain ⟨g1, g2⟩ := s.takeEdge_timeline e
    refine ⟨h1.trans g1, ?_⟩
    rw [List.foldl_cons, h2, g2, List.length_cons]
    omega

/-- Behind the first elements that meet a test stands one that does not. -/
theorem head_after_takeWhile {α : Type} (p : α → Bool) (l : List α) (x : α)
    (h : (l.drop (l.takeWhile p).length).head? = some x) : p x = false := by
  induction l with
  | nil => simp at h
  | cons y l ih =>
    by_cases hy : p y = true
    · rw [List.takeWhile_cons, if_pos hy, List.length_cons, List.drop_succ_cons] at h
      exact ih h
    · rw [List.takeWhile_cons, if_neg hy, List.length_nil, List.drop_zero, List.head?_cons] at h
      cases h
      simpa using hy

/-- Behind the edges at the present phase the next edge lies at another phase (R52). -/
theorem State.takeEdgesHere_next (s : State) :
    (s.takeEdgesHere.timeline.edges.drop s.takeEdgesHere.timeline.next).head?.map TEdge.phase ≠ some s.seq.phase := by
  obtain ⟨h1, h2⟩ := State.takeEdges_timeline s.edgesHere s
  unfold State.takeEdgesHere
  rw [h1, h2]
  unfold State.edgesHere
  rw [← List.drop_drop]
  intro h
  obtain ⟨e, he, hp⟩ := Option.map_eq_some_iff.mp h
  have := head_after_takeWhile _ _ _ he
  simp [hp] at this

/-- An edge on another channel leaves a channel alone (R53). -/
theorem State.takeEdge_other (s : State) (e : TEdge) (i : Fin 8) (h : e.channel ≠ i) :
    (s.takeEdge e).channels.get i = s.channels.get i ∧
      (s.takeEdge e).timeline.pulses.get i = s.timeline.pulses.get i ∧
      (s.takeEdge e).timeline.tallies.get i = s.timeline.tallies.get i := by
  have h' : i ≠ e.channel := fun x => h x.symm
  simp only [State.takeEdge]
  split <;> simp [Timeline.take, State.claim, State.onChannel, Row.get_modify, h']

theorem State.takeEdges_other (l : List TEdge) (i : Fin 8) (h : ∀ e ∈ l, e.channel ≠ i) (s : State) :
    (l.foldl State.takeEdge s).channels.get i = s.channels.get i ∧
      (l.foldl State.takeEdge s).timeline.pulses.get i = s.timeline.pulses.get i ∧
      (l.foldl State.takeEdge s).timeline.tallies.get i = s.timeline.tallies.get i := by
  induction l generalizing s with
  | nil => exact ⟨rfl, rfl, rfl⟩
  | cons e l ih =>
    obtain ⟨h1, h2, h3⟩ := ih (fun x hx => h x (by simp [hx])) (s.takeEdge e)
    obtain ⟨g1, g2, g3⟩ := s.takeEdge_other e i (h e (by simp))
    exact ⟨h1.trans g1, h2.trans g2, h3.trans g3⟩

/-- A cycle start up to its stage 7: everything but the edges and windows at phase 0 (R5). -/
def State.startStages (s : State) : State :=
  let swapped := ({ s with seq := s.seq.begin } : State).swapPending (some (s.seq.cycle + 1))
  { swapped with timeline := swapped.timeline.restarted, monitor := swapped.monitor.prepare }

theorem State.cycleStart_eq (s : State) :
    s.cycleStart =
      { s.startStages.takeEdgesHere with monitor := s.startStages.takeEdgesHere.monitor.openHere 0 } := rfl

/-- What stages 1 to 7 leave (R5). -/
theorem State.startStages_parts (s : State) :
    s.startStages.seq = s.seq.begin ∧ s.plans.handedOver s.startStages.plans (some (s.seq.cycle + 1)) ∧
    s.startStages.monitor.tallies = s.monitor.tallies ∧ s.startStages.monitor.inProgress = true ∧
    (∀ w ∈ s.startStages.monitor.table, w.hit = none ∧ w.state = .pending) ∧
    s.startStages.monitor.table.map Watch.window =
      (if s.plans.commitPending = true then s.plans.staged.windows else s.monitor.table.map Watch.window) ∧
    s.startStages.timeline =
      { s.timeline with
        edges := if s.plans.commitPending = true then s.plans.stagedTimeline else s.timeline.edges
        next := 0, marks := [] } ∧
    (∀ i, s.plans.handsBlock i (s.channels.get i) (s.startStages.channels.get i)) ∧
    s.startStages.notices =
      (if s.plans.commitPending = true then s.notices.raise (.report (.committed (some (s.seq.cycle + 1))))
        else s.notices) ∧
    s.startStages.filters = s.filters ∧ s.startStages.captures = s.captures ∧ s.startStages.media = s.media ∧
    s.startStages.store = s.store ∧ s.startStages.startup = s.startup := by
  obtain ⟨h1, h2, -, -, h3, h4, h5, h6, h7⟩ :=
    ({ s with seq := s.seq.begin } : State).swapPending_parts (some (s.seq.cycle + 1))
  refine ⟨?_, h1, h6, rfl, ?_, ?_, ?_, ?_, ?_, ?_, ?_, ?_, ?_, ?_⟩
  · simp [State.startStages]
  · intro w hw
    simp only [State.startStages, Monitor.prepare, List.mem_map] at hw
    obtain ⟨x, -, rfl⟩ := hw
    exact ⟨rfl, rfl⟩
  · simp only [State.startStages, Monitor.prepare, List.map_map, h7]
    by_cases hc : s.plans.commitPending = true
    · simp only [hc, if_true, List.map_map]
      exact List.map_id' _
    · simp only [if_neg hc]
      rfl
  · simp only [State.startStages, Timeline.restarted, Timeline.mk.injEq]
    exact ⟨h2, trivial, h3, trivial, h4⟩
  · exact ({ s with seq := s.seq.begin } : State).swapPending_block (some (s.seq.cycle + 1))
  · by_cases hc : s.plans.commitPending = true <;> simp [State.startStages, State.swapPending, State.swap, State.raise, hc]
  all_goals simp [State.startStages]

/-- A cycle start does all that R5 lists. -/
theorem State.cycleStart_spec (s : State) : StartedFrom s s.cycleStart := by
  obtain ⟨p1, p2, p3, p4, p5, p6, p7, p9, p10, p11, p12, p13, p14, p15⟩ := s.startStages_parts
  have p8 : s.startStages.timeline.next = 0 := congrArg Timeline.next p7
  have pe := congrArg Timeline.edges p7
  obtain ⟨e1, e2⟩ := State.takeEdges_timeline s.startStages.edgesHere s.startStages
  have here : s.startStages.edgesHere = s.startStages.timeline.edges.takeWhile fun e => decide (e.phase = 0) := by
    simp [State.edgesHere, p8, p1, Sequencer.begin]
  have win : s.cycleStart.monitor.table.map Watch.window = s.startStages.monitor.table.map Watch.window := by
    simp only [State.cycleStart_eq, State.takeEdgesHere_keeps, Monitor.openHere, List.map_map]
    congr 1
    funext w
    simp only [Function.comp, Watch.openAt]
    split <;> rfl
  rw [p8, zero_add] at e2
  refine ⟨?_, ?_, ?_, ?_, ?_, win.trans p6, e1.trans pe, ?_, ?_, ?_, ?_, ?_, ?_, ?_, ?_, ?_⟩
  · simp [Sequencer.startedAs, State.cycleStart_eq, p1, Sequencer.begin]
  · simpa [State.cycleStart_eq] using p2
  · simpa [State.cycleStart_eq, Monitor.openHere] using p4
  · simpa [State.cycleStart_eq, Monitor.openHere] using p3
  · intro w hw
    simp only [State.cycleStart_eq, State.takeEdgesHere_keeps, Monitor.openHere, List.mem_map] at hw
    obtain ⟨x, hx, rfl⟩ := hw
    obtain ⟨hh, hs⟩ := p5 x hx
    unfold Watch.openAt
    by_cases h0 : x.window.openAt = 0 <;> simp [h0, hs, hh]
  · show s.startStages.takeEdgesHere.timeline.next = _
    rw [State.takeEdgesHere, e2, here]
    show _ = (List.takeWhile _ s.startStages.takeEdgesHere.timeline.edges).length
    rw [State.takeEdgesHere, e1]
  · refine ⟨s.startStages.channels, _, p9, State.takeEdges_spec _ _, ?_⟩
    have he : s.cycleStart.timeline.edges = s.startStages.timeline.edges := e1
    have hq : s.cycleStart.seq = s.startStages.seq := by simp [State.cycleStart_eq]
    rw [he, ← here, hq, pe]
    exact State.takeEdges_same _ _ _ rfl p11 rfl p7
  · intro hc i hi
    have := State.takeEdges_other s.startStages.edgesHere i (fun e he => by
      rw [here, pe, if_neg (by simp [hc])] at he
      exact hi e (List.takeWhile_subset _ he) (by simpa using List.mem_takeWhile_imp he)) s.startStages
    rw [p7, show s.startStages.channels.get i = s.channels.get i by simpa [PlanBuffers.handsBlock, hc] using p9 i] at this
    exact this
  · simp only [State.cycleStart_eq, State.takeEdgesHere_keeps, p10]
    exact Notices.like.refl _
  · simpa [State.cycleStart_eq] using p11
  · simpa [State.cycleStart_eq] using p12
  · simpa [State.cycleStart_eq] using p13
  · simpa [State.cycleStart_eq] using p14
  · simpa [State.cycleStart_eq] using p15

/-! ## Halts and cycle starts beside the traffic of replies -/

theorem LinkKept.trans {s t u : State} (h : LinkKept s t) (h' : LinkKept t u) : LinkKept s u :=
  ⟨h'.1.trans h.1, h'.2.1.trans h.2.1, h'.2.2.1.trans h.2.2.1, h'.2.2.2.1.trans h.2.2.2.1,
    h'.2.2.2.2.trans h.2.2.2.2⟩

/-- Entering HALTED touches neither the link nor the session (R16). -/
theorem State.enterHalted_link (s : State) (cause : HaltCause) (phase : Nat) (subject : Option Nat) :
    LinkKept s (s.enterHalted cause phase subject) := by
  simp [LinkKept]

/-- A halt that a state shows, an agreeing state shows too. -/
theorem HaltedFrom.of_agrees {s t u : State} {cause : HaltCause} {phase : Nat} {subject : Option Nat}
    (h : HaltedFrom s t cause phase subject) (hu : u.agrees t) : HaltedFrom s u cause phase subject := by
  obtain ⟨a1, a2, a3, a4, a5, a6, a7, a8, a9, a10, a11, a12, a13, a14, a15⟩ := h
  obtain ⟨e1, e2, e3, e4, e5, e6, e7, e8, e9, e10, -⟩ := hu.parts
  unfold HaltedFrom
  rw [e1, e2, e3, e4, e5, e6, e7, e8, e9, e10]
  exact ⟨a1, a2, a3, a4, a5, a6, a7, a8, a9, hu.notices.trans a10, a11, a12, a13, a14, a15⟩

/-- A cycle start that a state shows, an agreeing state shows too. -/
theorem StartedFrom.of_agrees {s t u : State} (h : StartedFrom s t) (hu : u.agrees t) : StartedFrom s u := by
  obtain ⟨a1, a2, a3, a4, a5, a6, a7, a8, a9, a10, a11, a12, a13, a14, a15, a16⟩ := h
  obtain ⟨e1, e2, e3, e4, e5, e6, e7, e8, e9, e10, -⟩ := hu.parts
  unfold StartedFrom
  rw [e1, e2, e3, e4, e5, e6, e7, e8, e9, e10]
  exact ⟨a1, a2, a3, a4, a5, a6, a7, a8, a9, a10, hu.notices.trans a11, a12, a13, a14, a15, a16⟩

/-- A request's agreement with a halted state, for its command. -/
theorem State.agrees.halted {s t u : State} {cause : HaltCause} {phase : Nat} {subject : Option Nat}
    (h : t.agrees (u.enterHalted cause phase subject)) (hu : s = u) : HaltedFrom s t cause phase subject := by
  subst hu
  exact HaltedFrom.of_agrees (State.enterHalted_spec _ _ _ _) h

end Sys2Proof.Machine
end

