-- ==== Sys2Proof/Laws/Captures.lean ====
section
/-! SUPPORT. What a filter and an input edge can do: one sample a tick, the start-edge test, the cut, and the record of a
captured edge. -/

namespace Sys2Proof.Machine

/-- A filter's edge is due when its candidate has reached the depth in force (R74). -/
theorem Filter.due_iff (f : Filter) : f.due = true ↔ ∃ age, f.cand = some age ∧ f.depth ≤ age := by
  unfold Filter.due
  cases f.cand <;> simp

/-- Of two changes of a line in one tick the last is the sample (R74; entry 40). -/
@[simp] theorem Filter.rawChange_rawChange (f : Filter) (sampling : Bool) (first last : Wire) :
    (f.rawChange sampling first).rawChange sampling last = f.rawChange sampling last := by
  cases sampling
  · rfl
  · cases h : f.taken <;> simp [Filter.rawChange, Filter.sample, Filter.compare, h]

/-- Behind a taken edge no change of the line makes another due in that tick; in the next a level other than the filtered
one is a candidate of age 0 (R74). -/
theorem Filter.rawChange_settle (f : Filter) (sampling : Bool) (level : Wire) (depth : Nat) :
    (f.settle.rawChange sampling level).due = false ∧
      ((f.settle.rawChange sampling level).tick depth).cand = if level = f.raw then none else some 0 := by
  cases sampling <;> exact ⟨rfl, rfl⟩

/-- The start-edge test (R8). -/
theorem State.isStart_iff (s : State) (i : Fin 4) (d : Slope) :
    s.isStart i d = true ↔
      s.block.source = .triggered ∧ i = s.block.startInput ∧
        (s.block.startEdge = .rise ∧ d = .rise ∨ s.block.startEdge = .fall ∧ d = .fall) := by
  unfold State.isStart StartEdge.names
  cases s.block.startEdge <;> cases d <;> simp

/-- The capture selection names a direction (R78). -/
theorem Plan.captures_iff (p : Plan) (i : Fin 4) (d : Slope) :
    (p.inputs.get i).capture.names d = true ↔ p.captures i d := by
  unfold CaptureEdges.names Plan.captures
  cases (p.inputs.get i).capture <;> cases d <;> simp

/-- What follows a cut (R10). -/
theorem State.cut_eq (s : State) :
    s.cut =
      if s.seq.finish = true then s.cutFrom.enterHalted .finished s.seq.phase none
      else if s.seq.remaining = some 0 then s.cutFrom.enterHalted .countDone s.seq.phase none
      else s.cutFrom.cycleStart := rfl

/-- A record taken, and then the arbiter's choice: stored or dropped, counted and told (R78, R82 to R85). -/
theorem State.record_spec (s : State) (r : CaptureRecord) :
    (s.record r).arbitrate.recorded s.captures s.notices r := by
  refine ⟨fun room => ?_, fun full => ?_⟩
  · have stored : s.record r =
        if s.captures.fires = true then
          State.raise { s with captures := s.captures.store r } (.merging .captureLevel r.cycle)
        else { s with captures := s.captures.store r } := if_pos room
    have notices : (s.record r).notices =
        if s.captures.armed = true ∧ s.captures.records.length + 1 = s.captures.watermark then
          s.notices.raise (.merging .captureLevel r.cycle)
        else s.notices := by
      rw [stored]
      by_cases h : s.captures.fires = true
      · rw [if_pos h, if_pos (by simpa [Captures.fires] using h)]
        rfl
      · rw [if_neg h, if_neg (by simpa [Captures.fires] using h)]
    refine ⟨?_, notices ▸ State.arbitrate_notices _⟩
    have captures : (s.record r).captures = s.captures.store r := by
      rw [stored]
      split <;> rfl
    simp only [State.arbitrate_keeps, captures, Captures.store, Captures.fires, Row.modify]
    congr 1
    cases s.captures.armed <;> simp
  · have dropped : s.record r =
        State.raise { s with captures := s.captures.dropOne r.input } (.merging (.captureLoss r.input) r.cycle) :=
      if_neg (Nat.not_lt.mpr full)
    rw [dropped]
    exact ⟨by simp only [State.arbitrate_keeps, State.raise_keeps]; rfl, State.arbitrate_notices _⟩

/-- The Capture Queue's part of an edge leaves what the other two blocks made of it, but for its own notice (R77). -/
theorem State.captureEdge_took (before s : State) (i : Fin 4) (d : Slope) (window : Option Nat) :
    (State.captureEdge before s i d window).arbitrate.tookFrom s i := by
  have from_ : ∀ t : State, t.seq = s.seq → t.plans = s.plans → t.timeline = s.timeline → t.channels = s.channels →
      t.monitor = s.monitor →
      (t.notices = s.notices ∨
        ∃ c, t.notices = s.notices.raise (.merging .captureLevel c) ∨
          t.notices = s.notices.raise (.merging (.captureLoss i) c)) →
      t.arbitrate.tookFrom s i := by
    intro t h1 h2 h3 h4 h5 h6
    have like := t.arbitrate_notices
    refine ⟨by simpa using h1, by simpa using h2, by simpa using h3, by simpa using h4, by simpa using h5, ?_⟩
    rcases h6 with h | ⟨c, h | h⟩ <;> rw [h] at like
    · exact .inl like
    · exact .inr ⟨c, .inl like⟩
    · exact .inr ⟨c, .inr like⟩
  unfold State.captureEdge
  split
  · unfold State.record
    split
    · dsimp only
      split
      · exact from_ _ rfl rfl rfl rfl rfl (.inr ⟨_, .inl rfl⟩)
      · exact from_ _ rfl rfl rfl rfl rfl (.inl rfl)
    · exact from_ _ rfl rfl rfl rfl rfl (.inr ⟨_, .inr rfl⟩)
  · exact from_ _ rfl rfl rfl rfl rfl (.inl rfl)

end Sys2Proof.Machine
end

