-- ==== Sys2Proof/Laws/Link.lean ====
section
/-! SUPPORT. The frame assembler: bytes examined again are bytes that arrive (R136 to R138). -/

namespace Sys2Proof.Machine

/-- Bytes arrive at the assembler, and the frame that they complete last is checked (R136, R138). -/
def State.feed (s : State) (bytes : List Byte) : State := (bytes.foldl State.receive s).checkIfComplete

/-! ## The assembler apart from what is counted -/

@[simp] theorem State.withAsm_asm (s : State) (a : Asm) : (s.withAsm a).link.asm = a := rfl

@[simp] theorem State.withAsm_withAsm (s : State) (a b : Asm) : (s.withAsm a).withAsm b = s.withAsm b := rfl

@[simp] theorem State.withAsm_self (s : State) : s.withAsm s.link.asm = s := rfl

theorem State.countLink_withAsm (s : State) (a : Asm) (f : LinkCounters → LinkCounters) :
    (s.withAsm a).countLink f = (s.countLink f).withAsm a := rfl

theorem State.linkActivity_withAsm (s : State) (a : Asm) : (s.withAsm a).linkActivity = s.linkActivity.withAsm a := by
  have : (s.withAsm a).session = s.session := rfl
  unfold State.linkActivity
  rw [this]
  split <;> rfl

theorem State.offer_withAsm (s : State) (a : Asm) (f : Frame) : (s.withAsm a).offer f = (s.offer f).withAsm a := by
  have : (s.withAsm a).link.waiting = s.link.waiting := rfl
  unfold State.offer
  rw [this]
  cases s.link.waiting <;> rfl

/-- What a re-examination or a check finds leaves the assembler as it is, and does not depend on it. -/
theorem State.linkEvent_withAsm (s : State) (a : Asm) (e : LinkEvent) :
    (s.withAsm a).linkEvent e = (s.linkEvent e).withAsm a := by
  cases e with
  | good f =>
    simp only [State.linkEvent, State.goodFrame, State.countLink_withAsm, State.linkActivity_withAsm]
    split
    · exact State.offer_withAsm _ _ _
    · rfl
  | _ => rfl

@[simp] theorem State.linkEvent_asm (s : State) (e : LinkEvent) : (s.linkEvent e).link.asm = s.link.asm := by
  have := congrArg (fun t => t.link.asm) (s.linkEvent_withAsm s.link.asm e)
  exact this

@[simp] theorem State.rescanned_cons (s : State) (e : LinkEvent) (es : List LinkEvent) (a : Asm) :
    s.rescanned (e :: es, a) = (s.linkEvent e).rescanned (es, a) := rfl

@[simp] theorem State.rescanned_nil (s : State) (a : Asm) : s.rescanned ([], a) = s.withAsm a := rfl

@[simp] theorem State.rescanned_asm (s : State) (found : List LinkEvent × Asm) :
    (s.rescanned found).link.asm = found.2 := rfl

/-- A re-examination puts its own assembler in place of the one that was there. -/
theorem State.rescanned_withAsm (s : State) (a : Asm) (found : List LinkEvent × Asm) :
    (s.withAsm a).rescanned found = s.rescanned found := by
  obtain ⟨es, b⟩ := found
  induction es generalizing s with
  | nil => rfl
  | cons e es ih => rw [State.rescanned_cons, State.linkEvent_withAsm, ih, State.rescanned_cons]

/-! ## A frame that is being assembled -/

/-- Inside a frame the assembler is not complete before the second CRC byte. -/
theorem Asm.holding_complete (n : Byte) (body : List Byte) (gap : Option Nat) (h : lengthOk n = true) :
    (Asm.holding (n :: body) gap).complete = true ↔ body.length = n.toNat + 2 := by
  have := of_decide_eq_true h
  by_cases hb : body.length < n.toNat
  · simp only [Asm.holding, Asm.complete, hb, if_true]
    simp
    omega
  · simp only [Asm.holding, Asm.complete, hb, if_false, List.length_cons, decide_eq_true_eq]
    omega

theorem Asm.holding_held (n : Byte) (body : List Byte) (gap : Option Nat) : (Asm.holding (n :: body) gap).held = n :: body := rfl

theorem Asm.holding_gap (n : Byte) (body : List Byte) (gap : Option Nat) : (Asm.holding (n :: body) gap).gap = gap := rfl

/-- A frame is read from its own bytes alone. -/
theorem frameIn_take (n : Nat) (rest : List Byte) : frameIn n (rest.take (n + 2)) = frameIn n rest := by
  simp [frameIn, List.take_take, List.drop_take]

theorem Asm.holding_length_complete (gap : Option Nat) : (Asm.holding [] gap).complete = false := rfl

/-- Bytes behind a SYNC and a length are held until the frame is complete (R136). -/
theorem State.receive_frame (s : State) (n : Byte) (body : List Byte) (h : lengthOk n = true)
    (hb : body.length ≤ n.toNat + 2) :
    (n :: body).foldl State.receive (s.withAsm (Asm.holding [] (some 0))) = s.withAsm (Asm.holding (n :: body) (some 0)) := by
  have hn := of_decide_eq_true h
  induction body using List.reverseRecOn with
  | nil =>
    simp only [List.foldl_cons, List.foldl_nil, State.receive, State.checkIfComplete, State.withAsm_asm,
      Asm.holding_length_complete]
    simp [Asm.holding, Asm.examine, h, show 0 < n.toNat by omega]
  | append_singleton body b ih =>
    rw [List.length_append, List.length_singleton] at hb
    rw [← List.cons_append, List.foldl_append, ih (by omega)]
    have part : (Asm.holding (n :: body) (some 0)).complete = false := by
      rw [← Bool.not_eq_true, Asm.holding_complete n body _ h]
      omega
    simp only [List.foldl_cons, List.foldl_nil, State.receive, State.checkIfComplete, State.withAsm_asm, part,
      Bool.false_eq_true, if_false]
    by_cases h1 : body.length < n.toNat
    · by_cases h2 : body.length + 1 = n.toNat
      · simp [Asm.holding, Asm.examine, h1, h2]
      · simp [Asm.holding, Asm.examine, h1, h2, show body.length + 1 < n.toNat by omega]
    · simp [Asm.holding, Asm.examine, h1, show ¬ body.length + 1 < n.toNat by omega]

/-- What a re-examination does with a SYNC, a length and the bytes behind them (R136 to R138). -/
theorem rescan_sync (flush : Bool) (gap : Option Nat) (k : Nat) (n : Byte) (rest : List Byte) :
    rescan flush gap (k + 1) (syncByte :: n :: rest) =
      let again := rescan flush gap k (n :: rest)
      let next := rescan flush gap k (rest.drop (n.toNat + 2))
      if lengthOk n = false then (.lengthError :: again.1, again.2)
      else if rest.length < n.toNat + 2 then
        if flush then (.gap :: again.1, again.2) else ([], Asm.holding (n :: rest) gap)
      else if (frameIn n.toNat rest).crcOk then (.good (frameIn n.toNat rest) :: next.1, next.2)
      else (.badCrc :: again.1, again.2) := rfl

theorem rescan_other (flush : Bool) (gap : Option Nat) (k : Nat) (x : Byte) (xs : List Byte) (h : x ≠ syncByte) :
    rescan flush gap (k + 1) (x :: xs) = rescan flush gap k xs := by
  cases xs <;> exact if_pos h

theorem rescan_end (flush : Bool) (gap : Option Nat) (k : Nat) :
    rescan flush gap (k + 1) [syncByte] = if flush then ([.gap], Asm.reset) else ([], Asm.holding [] gap) := rfl

/-- A re-examination never leaves a complete frame unchecked. -/
theorem rescan_complete (flush : Bool) (gap : Option Nat) (k : Nat) (bytes : List Byte) :
    (rescan flush gap k bytes).2.complete = false := by
  induction k generalizing bytes with
  | zero => rfl
  | succ k ih =>
    match bytes with
    | [] => rfl
    | x :: xs =>
      by_cases hx : x = syncByte
      · subst hx
        match xs with
        | [] => cases flush <;> rfl
        | n :: rest =>
          rw [rescan_sync]
          dsimp only
          split
          · exact ih _
          · rename_i hn
            have hn : lengthOk n = true := by simpa using hn
            split
            · split
              · exact ih _
              · rename_i short _
                rw [← Bool.not_eq_true, Asm.holding_complete n rest _ hn]
                omega
            · split <;> exact ih _
      · rw [rescan_other _ _ _ _ _ hx]
        exact ih xs

/-- More fuel than there are bytes changes nothing. -/
theorem rescan_fuel (flush : Bool) (gap : Option Nat) (k j : Nat) (bytes : List Byte) (hk : bytes.length ≤ k)
    (hj : bytes.length ≤ j) : rescan flush gap k bytes = rescan flush gap j bytes := by
  induction k generalizing bytes j with
  | zero =>
    obtain rfl := List.length_eq_zero_iff.mp (Nat.le_zero.mp hk)
    cases j <;> rfl
  | succ k ih =>
    match bytes, j with
    | [], 0 => rfl
    | [], j + 1 => rfl
    | x :: xs, j + 1 =>
      rw [List.length_cons] at hk hj
      by_cases hx : x = syncByte
      · subst hx
        match xs with
        | [] => rfl
        | n :: rest =>
          rw [List.length_cons] at hk hj
          rw [rescan_sync, rescan_sync, ih j (n :: rest) (by simp; omega) (by simp; omega),
            ih j (rest.drop (n.toNat + 2)) (by rw [List.length_drop]; omega) (by rw [List.length_drop]; omega)]
      · rw [rescan_other _ _ _ _ _ hx, rescan_other _ _ _ _ _ hx]
        exact ih j xs (by omega) (by omega)

/-! ## Bytes that arrive at an assembler in SEARCHING -/

theorem State.checkFrame_complete (s : State) : s.checkFrame.link.asm.complete = false := by
  unfold State.checkFrame
  split
  · rfl
  · split
    · rfl
    · exact rescan_complete _ _ _ _

theorem State.checkIfComplete_complete (s : State) : s.checkIfComplete.link.asm.complete = false := by
  unfold State.checkIfComplete
  split
  · exact s.checkFrame_complete
  · simpa using ‹¬ s.link.asm.complete = true›

@[simp] theorem State.checkIfComplete_twice (s : State) : s.checkIfComplete.checkIfComplete = s.checkIfComplete := by
  rw [State.checkIfComplete, s.checkIfComplete_complete]
  rfl

/-- A complete frame is checked before the bytes behind it (R136, R138). -/
theorem State.feed_checkIfComplete (s : State) (bytes : List Byte) : s.checkIfComplete.feed bytes = s.feed bytes := by
  cases bytes with
  | nil => exact s.checkIfComplete_twice
  | cons b rest =>
    have : s.checkIfComplete.receive b = s.receive b := by simp only [State.receive, State.checkIfComplete_twice]
    rw [State.feed, State.feed, List.foldl_cons, List.foldl_cons, this]

theorem State.feed_append (s : State) (a b : List Byte) : s.feed (a ++ b) = (s.feed a).feed b := by
  have := State.feed_checkIfComplete (a.foldl State.receive s) b
  rw [State.feed, List.foldl_append]
  exact this.symm

section Searching

variable (s : State) (hs : s.link.asm = Asm.reset)

include hs

/-- Bytes that are no SYNC are ignored in SEARCHING. -/
theorem State.feed_other (x : Byte) (xs : List Byte) (h : x ≠ syncByte) : s.feed (x :: xs) = s.feed xs := by
  have : s.receive x = s := by
    simp only [State.receive, State.checkIfComplete, hs]
    simp only [Asm.reset, Asm.complete, Asm.examine, h, if_false, Bool.false_eq_true]
    exact hs ▸ s.withAsm_self
  rw [State.feed, List.foldl_cons, this, State.feed]

theorem State.receive_sync : s.receive syncByte = s.withAsm (Asm.holding [] (some 0)) := by
  have : s.checkIfComplete = s := by rw [State.checkIfComplete, hs]; rfl
  rw [State.receive, this, hs]
  rfl

theorem State.feed_sync : s.feed [syncByte] = s.withAsm (Asm.holding [] (some 0)) := by
  rw [State.feed, List.foldl_cons, s.receive_sync hs]
  rfl

/-- A false SYNC (R136). -/
theorem State.feed_falseSync (n : Byte) (rest : List Byte) (h : lengthOk n = false) :
    s.feed (syncByte :: n :: rest) = (s.linkEvent .lengthError).feed (n :: rest) := by
  have hn : n ≠ syncByte := fun e => by subst e; exact absurd h (by decide)
  have : (s.withAsm (Asm.holding [] (some 0))).receive n = s.linkEvent .lengthError := by
    simp only [State.receive, State.checkIfComplete, State.withAsm_asm, Asm.holding_length_complete, Bool.false_eq_true,
      if_false]
    simp only [Asm.holding, Asm.examine, h, Bool.false_eq_true, if_false, if_true, State.withAsm_withAsm]
    rw [State.linkEvent_withAsm, ← hs, ← s.linkEvent_asm .lengthError, State.withAsm_self]
  rw [State.feed_other _ (by simp [hs]) n rest hn, State.feed, List.foldl_cons, List.foldl_cons, s.receive_sync hs, this,
    State.feed]

/-- A frame that has not all its bytes yet. -/
theorem State.feed_short (n : Byte) (rest : List Byte) (h : lengthOk n = true) (hr : rest.length < n.toNat + 2) :
    s.feed (syncByte :: n :: rest) = s.withAsm (Asm.holding (n :: rest) (some 0)) := by
  have part : (Asm.holding (n :: rest) (some 0)).complete = false := by
    rw [← Bool.not_eq_true, Asm.holding_complete n rest _ h]
    omega
  rw [State.feed, List.foldl_cons, s.receive_sync hs, s.receive_frame n rest h (by omega)]
  simp only [State.checkIfComplete, State.withAsm_asm, part, Bool.false_eq_true, if_false]

/-- A frame with all its bytes is checked (R138), and the bytes behind it arrive. -/
theorem State.feed_long (n : Byte) (rest : List Byte) (h : lengthOk n = true) (hr : n.toNat + 2 ≤ rest.length) :
    s.feed (syncByte :: n :: rest) =
      (s.withAsm (Asm.holding (n :: rest.take (n.toNat + 2)) (some 0))).checkFrame.feed (rest.drop (n.toNat + 2)) := by
  have len : (rest.take (n.toNat + 2)).length = n.toNat + 2 := by rw [List.length_take]; omega
  have full := (Asm.holding_complete n (rest.take (n.toNat + 2)) (some 0) h).mpr len
  conv_lhs => rw [← List.take_append_drop (n.toNat + 2) rest]
  rw [← List.cons_append, ← List.cons_append, State.feed_append]
  congr 1
  rw [State.feed, List.foldl_cons, s.receive_sync hs, s.receive_frame n _ h (by omega)]
  simp only [State.checkIfComplete, State.withAsm_asm, full, if_true]

/-- A good frame (R138), and the bytes behind it. -/
theorem State.feed_good (n : Byte) (rest : List Byte) (h : lengthOk n = true) (hr : n.toNat + 2 ≤ rest.length)
    (hc : (frameIn n.toNat rest).crcOk = true) :
    s.feed (syncByte :: n :: rest) = (s.linkEvent (.good (frameIn n.toNat rest))).feed (rest.drop (n.toNat + 2)) := by
  have held : frameIn n.toNat (rest.take (n.toNat + 2)) = frameIn n.toNat rest := frameIn_take n.toNat rest
  rw [s.feed_long hs n rest h hr, State.checkFrame, State.withAsm_asm, Asm.holding_held]
  dsimp only
  rw [held, if_pos hc]
  congr 1
  have := State.linkEvent_withAsm s (Asm.holding (n :: rest.take (n.toNat + 2)) (some 0)) (.good (frameIn n.toNat rest))
  rw [State.linkEvent] at this
  rw [this, State.withAsm_withAsm, ← hs, ← s.linkEvent_asm (.good (frameIn n.toNat rest))]
  exact State.withAsm_self _

end Searching

/-- Bytes examined again from SEARCHING leave what the same bytes leave that arrive there (R136 to R138). -/
theorem State.rescan_feed (k : Nat) (bytes : List Byte) (s : State) (hs : s.link.asm = Asm.reset)
    (hk : bytes.length ≤ k) : s.rescanned (rescan false (some 0) k bytes) = s.feed bytes := by
  induction k generalizing bytes s with
  | zero =>
    obtain rfl := List.length_eq_zero_iff.mp (Nat.le_zero.mp hk)
    rw [State.feed, List.foldl_nil, State.checkIfComplete, hs]
    exact (congrArg s.withAsm hs.symm).trans s.withAsm_self
  | succ k ih =>
    match bytes with
    | [] =>
      rw [State.feed, List.foldl_nil, State.checkIfComplete, hs]
      exact (congrArg s.withAsm hs.symm).trans s.withAsm_self
    | x :: xs =>
      rw [List.length_cons] at hk
      by_cases hx : x = syncByte
      · subst hx
        match xs with
        | [] => exact (s.feed_sync hs).symm
        | n :: rest =>
          rw [List.length_cons] at hk
          have again (e : LinkEvent) := ih (n :: rest) (s.linkEvent e) (by simp [hs]) (by simp; omega)
          rw [rescan_sync]
          dsimp only
          split
          · rename_i hn
            rw [s.feed_falseSync hs n rest hn, State.rescanned_cons]
            exact again _
          · rename_i hn
            have hn : lengthOk n = true := by simpa using hn
            split
            · exact (s.feed_short hs n rest hn ‹_›).symm
            · rename_i long
              have long : n.toNat + 2 ≤ rest.length := by omega
              split
              · rename_i hc
                rw [s.feed_good hs n rest hn long hc, State.rescanned_cons]
                exact ih _ _ (by simp [hs]) (by rw [List.length_drop]; omega)
              · rename_i hc
                rw [State.rescanned_cons, again, s.feed_long hs n rest hn long, State.checkFrame, State.withAsm_asm,
                  Asm.holding_held]
                dsimp only
                rw [frameIn_take n.toNat rest, if_neg hc, State.linkEvent_withAsm, State.rescanned_withAsm,
                  Asm.holding_gap, rescan_fuel _ _ _ k _ le_rfl (by simp; omega),
                  ih _ _ (by simp [hs]) (by simp; omega), ← State.feed_append, List.cons_append,
                  List.take_append_drop]
      · rw [rescan_other _ _ _ _ _ hx, s.feed_other hs x xs hx]
        exact ih xs s hs (by omega)

/-- A frame with a wrong CRC (R138): its bytes behind the SYNC arrive again, and the bytes behind them. -/
theorem State.feed_bad (s : State) (hs : s.link.asm = Asm.reset) (n : Byte) (rest : List Byte) (h : lengthOk n = true)
    (hr : n.toNat + 2 ≤ rest.length) (hc : ¬ (frameIn n.toNat rest).crcOk = true) :
    s.feed (syncByte :: n :: rest) = (s.linkEvent .badCrc).feed (n :: rest) := by
  have := s.rescan_feed (rest.length + 2) (syncByte :: n :: rest) hs (by simp)
  rw [rescan_sync] at this
  simp only [h, Bool.true_eq_false, if_false, hc, show ¬ rest.length < n.toNat + 2 by omega] at this
  rw [← this]
  exact State.rescan_feed _ _ _ (by simp [hs]) (by simp)

/-- The gap timer that a re-examination is given is that of the frame it ends inside, and changes nothing else (R138). -/
theorem rescan_gap (e : Nat) (k : Nat) (bytes : List Byte) :
    rescan false (some e) k bytes =
      ((rescan false (some 0) k bytes).1,
        { (rescan false (some 0) k bytes).2 with gap := (rescan false (some 0) k bytes).2.gap.map fun _ => e }) := by
  induction k generalizing bytes with
  | zero => rfl
  | succ k ih =>
    match bytes with
    | [] => rfl
    | x :: xs =>
      by_cases hx : x = syncByte
      · subst hx
        match xs with
        | [] => rfl
        | n :: rest =>
          rw [rescan_sync, rescan_sync, ih, ih]
          dsimp only
          split
          · rfl
          · split
            · rfl
            · split <;> rfl
      · rw [rescan_other _ _ _ _ _ hx, rescan_other _ _ _ _ _ hx]
        exact ih xs

/-- Behind an expired gap timer the bytes examined again leave what arriving bytes leave; a frame that they end inside is a
further gap discard, and its bytes are examined in turn (R137). -/
theorem State.rescan_flush (k : Nat) (bytes : List Byte) (s : State) (hs : s.link.asm = Asm.reset)
    (hk : bytes.length ≤ k) :
    s.rescanned (rescan true none k bytes) =
      if (s.feed bytes).link.asm.state = .searching then s.feed bytes else (s.feed bytes).gapExpired := by
  have none_ (s : State) (hs : s.link.asm = Asm.reset) : s.withAsm Asm.reset = s ∧ s.feed [] = s := by
    refine ⟨(congrArg s.withAsm hs.symm).trans s.withAsm_self, ?_⟩
    rw [State.feed, List.foldl_nil, State.checkIfComplete, hs]
    rfl
  induction k generalizing bytes s with
  | zero =>
    obtain rfl := List.length_eq_zero_iff.mp (Nat.le_zero.mp hk)
    rw [(none_ s hs).2, if_pos (by rw [hs]; rfl)]
    exact (none_ s hs).1
  | succ k ih =>
    match bytes with
    | [] =>
      rw [(none_ s hs).2, if_pos (by rw [hs]; rfl)]
      exact (none_ s hs).1
    | x :: xs =>
      rw [List.length_cons] at hk
      by_cases hx : x = syncByte
      · subst hx
        match xs with
        | [] =>
          rw [s.feed_sync hs, if_neg (by simp [Asm.holding]), State.gapExpired, State.linkEvent_withAsm,
            State.rescanned_withAsm]
          rfl
        | n :: rest =>
          rw [List.length_cons] at hk
          have again (e : LinkEvent) := ih (n :: rest) (s.linkEvent e) (by simp [hs]) (by simp; omega)
          rw [rescan_sync]
          dsimp only
          split
          · rename_i hn
            rw [s.feed_falseSync hs n rest hn, State.rescanned_cons]
            exact again _
          · rename_i hn
            have hn : lengthOk n = true := by simpa using hn
            split
            · have inside : (Asm.holding (n :: rest) (some 0)).state ≠ .searching := by
                unfold Asm.holding
                dsimp only
                split <;> simp
              rw [s.feed_short hs n rest hn ‹_›, State.withAsm_asm, if_neg inside, State.gapExpired,
                State.linkEvent_withAsm, State.rescanned_withAsm, State.withAsm_asm, Asm.holding_held, if_pos rfl,
                State.rescanned_cons, rescan_fuel _ _ _ k _ le_rfl (by simp; omega)]
            · rename_i long
              have long : n.toNat + 2 ≤ rest.length := by omega
              split
              · rename_i hc
                rw [s.feed_good hs n rest hn long hc, State.rescanned_cons]
                exact ih _ _ (by simp [hs]) (by rw [List.length_drop]; omega)
              · rename_i hc
                rw [s.feed_bad hs n rest hn long hc, State.rescanned_cons]
                exact again _
      · rw [rescan_other _ _ _ _ _ hx, s.feed_other hs x xs hx]
        exact ih xs s hs (by omega)

/-! ## The commands (R136 to R138) -/

/-- Bytes that arrive one by one, each by its CHARACTER_RECEIVED, lead to what they leave of the assembler. -/
theorem State.fedTo_feed (s : State) (bytes : List Byte) (h : s.live = true) : FedTo bytes s (s.feed bytes) := by
  induction bytes generalizing s with
  | nil =>
    refine ⟨fun part => ?_, fun full => ?_⟩ <;> rw [State.feed, List.foldl_nil, State.checkIfComplete]
    · rw [part]
      rfl
    · rw [if_pos full]
      simp [exec, execFrameReceived, State.frameArrives, h, full]
  | cons b rest ih =>
    have live : (s.receive b).live = true := by simpa [State.live] using h
    exact ⟨s.receive b, by simp [exec, execCharacterReceived, State.characterArrives, h], ih _ live⟩

end Sys2Proof.Machine
end

