-- ==== Sys2Proof/Laws/Media.lean ====
section
/-! SUPPORT. The media: reading after writing, and the canonical form, which every operation on the media keeps. -/

namespace Sys2Proof.Machine

/-- The canonical form as propositions. -/
theorem Media.wf_iff (m : Media) :
    m.wf = true ↔
      m.Pairwise (fun x y => x.1 < y.1) ∧ (∀ c ∈ m, c.2 ≠ erased) ∧ ∀ c ∈ m, c.1 < 2 * Config.bankSize := by
  simp [Media.wf, Media.addresses, List.all_eq_true, and_assoc]

theorem Media.read_nil (addr : Nat) : Media.read [] addr = erased := rfl

theorem Media.read_cons (k : Nat) (x : Byte) (m : Media) (addr : Nat) :
    Media.read ((k, x) :: m) addr = if addr = k then x else Media.read m addr := by
  by_cases h : addr = k
  · simp [Media.read, h]
  · simp [Media.read, List.lookup, h, beq_eq_false_iff_ne.mpr h]

theorem Media.read_absent (m : Media) (addr : Nat) (h : ∀ c ∈ m, c.1 ≠ addr) : m.read addr = erased := by
  induction m with
  | nil => rfl
  | cons c m ih =>
    obtain ⟨k, x⟩ := c
    rw [Media.read_cons, if_neg (fun e => h (k, x) (by simp) e.symm)]
    exact ih fun c hc => h c (by simp [hc])

/-- A byte read after a put: the one put, at its address; the old one elsewhere. -/
theorem Media.read_put (m : Media) (hm : m.Pairwise fun x y => x.1 < y.1) (addr : Nat) (v : Byte) (at_ : Nat) :
    (m.put addr v).read at_ = if at_ = addr then v else m.read at_ := by
  induction m with
  | nil =>
    by_cases hv : v = erased
    · simp [Media.put, hv, Media.read_nil]
    · simp [Media.put, hv, Media.read_cons]
  | cons c m ih =>
    obtain ⟨k, x⟩ := c
    obtain ⟨hk, hm⟩ := List.pairwise_cons.mp hm
    rw [Media.put]
    by_cases h1 : addr < k
    · have gone : Media.read ((k, x) :: m) addr = erased :=
        Media.read_absent _ _ fun c hc => by
          rcases List.mem_cons.mp hc with rfl | hc
          · exact fun e => by subst e; exact absurd h1 (lt_irrefl _)
          · have := hk c hc; exact fun e => by omega
      rw [if_pos h1]
      by_cases hv : v = erased
      · rw [if_pos hv]
        by_cases ha : at_ = addr
        · rw [if_pos ha, ha, gone, hv]
        · rw [if_neg ha]
      · rw [if_neg hv, Media.read_cons]
    · rw [if_neg h1]
      by_cases h2 : addr = k
      · rw [if_pos h2]
        subst h2
        by_cases hv : v = erased
        · rw [if_pos hv, Media.read_cons]
          by_cases ha : at_ = addr
          · rw [if_pos ha, ha, hv]
            exact Media.read_absent _ _ fun c hc => by have := hk c hc; simp only at this; omega
          · rw [if_neg ha, if_neg ha]
        · rw [if_neg hv, Media.read_cons, Media.read_cons]
          by_cases ha : at_ = addr <;> simp [ha]
      · rw [if_neg h2, Media.read_cons, Media.read_cons, ih hm]
        by_cases ha : at_ = k
        · simp [ha, Ne.symm h2]
        · simp [ha]

/-- The cells after a put are old ones or the one put, which is then not erased. -/
theorem Media.mem_put (m : Media) (addr : Nat) (v : Byte) (c : Host.Cell) (h : c ∈ m.put addr v) :
    c ∈ m ∨ (c = (addr, v) ∧ v ≠ erased) := by
  induction m with
  | nil =>
    by_cases hv : v = erased
    · simp [Media.put, hv] at h
    · simp [Media.put, hv] at h; exact .inr ⟨h, hv⟩
  | cons d m ih =>
    obtain ⟨k, x⟩ := d
    rw [Media.put] at h
    split at h
    · split at h
      · exact .inl h
      · rename_i hv
        rcases List.mem_cons.mp h with h | h
        · exact .inr ⟨h, hv⟩
        · exact .inl h
    · split at h
      · rename_i hk
        subst hk
        split at h
        · exact .inl (List.mem_cons_of_mem _ h)
        · rename_i hv
          rcases List.mem_cons.mp h with h | h
          · exact .inr ⟨h, hv⟩
          · exact .inl (List.mem_cons_of_mem _ h)
      · rcases List.mem_cons.mp h with h | h
        · exact .inl (by simp [h])
        · rcases ih h with h | h
          · exact .inl (List.mem_cons_of_mem _ h)
          · exact .inr h

theorem Media.put_sorted (m : Media) (hm : m.Pairwise fun x y => x.1 < y.1) (addr : Nat) (v : Byte) :
    (m.put addr v).Pairwise fun x y => x.1 < y.1 := by
  induction m with
  | nil => simp only [Media.put]; split <;> simp
  | cons d m ih =>
    obtain ⟨k, x⟩ := d
    have hall := hm
    obtain ⟨hk, hrest⟩ := List.pairwise_cons.mp hm
    rw [Media.put]
    split
    · rename_i h1
      split
      · exact hall
      · refine List.pairwise_cons.mpr ⟨fun c hc => ?_, hall⟩
        rcases List.mem_cons.mp hc with rfl | hc
        · exact h1
        · exact lt_trans h1 (hk c hc)
    · split
      · rename_i h1 h2
        subst h2
        split
        · exact hrest
        · exact List.pairwise_cons.mpr ⟨hk, hrest⟩
      · rename_i h1 h2
        refine List.pairwise_cons.mpr ⟨fun c hc => ?_, ih hrest⟩
        rcases Media.mem_put m addr v c hc with hc | ⟨rfl, -⟩
        · exact hk c hc
        · simp only; omega

/-- A put inside the two banks keeps the canonical form. -/
theorem Media.put_wf (m : Media) (hm : m.wf = true) (addr : Nat) (v : Byte) (ha : addr < 2 * Config.bankSize) :
    (m.put addr v).wf = true := by
  rw [Media.wf_iff] at hm ⊢
  obtain ⟨h1, h2, h3⟩ := hm
  refine ⟨Media.put_sorted m h1 addr v, fun c hc => ?_, fun c hc => ?_⟩ <;>
    rcases Media.mem_put m addr v c hc with hc | ⟨rfl, hv⟩
  · exact h2 c hc
  · exact hv
  · exact h3 c hc
  · exact ha

theorem Media.putAll_wf (m : Media) (hm : m.wf = true) (addr : Nat) (data : List Byte)
    (ha : addr + data.length ≤ 2 * Config.bankSize) : (m.putAll addr data).wf = true := by
  induction data generalizing m addr with
  | nil => exact hm
  | cons v vs ih =>
    rw [List.length_cons] at ha
    exact ih _ (Media.put_wf m hm addr v (by omega)) _ (by omega)

/-- Programming inside the two banks keeps the canonical form (R100). -/
theorem Media.program_wf (m : Media) (hm : m.wf = true) (undone : List Host.Cell) (addr : Nat) (data : List Byte)
    (ha : addr + data.length ≤ 2 * Config.bankSize) : (m.program undone addr data).wf = true := by
  induction data generalizing m addr with
  | nil => exact hm
  | cons v vs ih =>
    rw [List.length_cons] at ha
    exact ih _ (Media.put_wf m hm addr _ (by omega)) _ (by omega)

/-- An erase keeps the canonical form (R100). -/
theorem Media.erase_wf (m : Media) (hm : m.wf = true) (undone : List Host.Cell) (bank : Bank) :
    (m.erase undone bank).wf = true := by
  have key : ∀ (l : List Host.Cell) (acc : Media), acc.wf = true → (∀ c ∈ l, c.1 < 2 * Config.bankSize) →
      (l.foldl (fun acc c => acc.put c.1 (c.2 ||| ~~~ (cellOr undone 0 c.1))) acc : Media).wf = true := by
    intro l
    induction l with
    | nil => intro acc h _; exact h
    | cons c l ih =>
      intro acc h hl
      exact ih _ (Media.put_wf acc h _ _ (hl c (by simp))) fun d hd => hl d (by simp [hd])
  rw [Media.wf_iff] at hm
  obtain ⟨h1, h2, h3⟩ := hm
  refine key _ _ ((Media.wf_iff _).mpr ⟨h1.filter _, fun c hc => ?_, fun c hc => ?_⟩) fun c hc => ?_
  · exact h2 c (List.mem_filter.mp hc).1
  · exact h3 c (List.mem_filter.mp hc).1
  · exact h3 c (List.mem_filter.mp hc).1

/-- Forcing cells of a range inside the two banks keeps the canonical form (R100). -/
theorem Media.force_wf (m : Media) (hm : m.wf = true) (lo n : Nat) (faults : List Host.Cell)
    (ha : lo + n ≤ 2 * Config.bankSize) : (m.force lo n faults).wf = true := by
  induction faults generalizing m with
  | nil => exact hm
  | cons c l ih =>
    refine ih _ ?_
    dsimp only
    split
    · exact Media.put_wf m hm _ _ (by omega)
    · exact hm

/-- A byte masked by another has no bit that the other lacks. -/
theorem Byte.and_and_left (a b : Byte) : a &&& b &&& a = a &&& b := by
  rw [BitVec.and_assoc, BitVec.and_comm b a, ← BitVec.and_assoc, BitVec.and_self]

/-- A byte read after programming has no bit that it had not before, and outside the row is as it was (R100). -/
theorem Media.read_program (m : Media) (hm : m.wf = true) (undone : List Host.Cell) (addr : Nat) (data : List Byte)
    (ha : addr + data.length ≤ 2 * Config.bankSize) (at_ : Nat) :
    (m.program undone addr data).read at_ &&& m.read at_ = (m.program undone addr data).read at_ ∧
      (¬ (addr ≤ at_ ∧ at_ < addr + data.length) → (m.program undone addr data).read at_ = m.read at_) := by
  induction data generalizing m addr with
  | nil => simp [Media.program]
  | cons v vs ih =>
    rw [List.length_cons] at ha ⊢
    have put := Media.read_put m ((Media.wf_iff m).mp hm).1 addr (m.read addr &&& (v ||| cellOr undone 0 addr)) at_
    obtain ⟨less, same⟩ := ih _ (Media.put_wf m hm addr (m.read addr &&& (v ||| cellOr undone 0 addr)) (by omega)) (addr + 1)
      (by omega)
    rw [put] at less same
    rw [Media.program]
    refine ⟨?_, fun out => ?_⟩
    · by_cases h : at_ = addr
      · subst h
        rw [if_pos rfl] at less
        rw [← less, BitVec.and_assoc, Byte.and_and_left]
      · rwa [if_neg h] at less
    · rw [same (by omega), if_neg (by omega)]

/-- A byte read after cells are forced is as it was, or one that a cell of the range names. -/
theorem Media.read_force (m : Media) (hm : m.wf = true) (lo n : Nat) (faults : List Host.Cell)
    (ha : lo + n ≤ 2 * Config.bankSize) (at_ : Nat) :
    (m.force lo n faults).read at_ = m.read at_ ∨
      lo ≤ at_ ∧ at_ < lo + n ∧ (at_, (m.force lo n faults).read at_) ∈ faults := by
  induction faults generalizing m with
  | nil => exact .inl rfl
  | cons c l ih =>
    rw [Media.force, List.foldl_cons]
    split
    · rename_i range
      have put := Media.read_put m ((Media.wf_iff m).mp hm).1 c.1 c.2 at_
      rcases ih _ (Media.put_wf m hm c.1 c.2 (by omega)) with same | ⟨h1, h2, h3⟩
      · rw [Media.force] at same
        rw [same, put]
        by_cases h : at_ = c.1
        · subst h
          exact .inr ⟨range.1, range.2, by simp⟩
        · exact .inl (if_neg h)
      · exact .inr ⟨h1, h2, List.mem_cons_of_mem _ h3⟩
    · rcases ih m hm with same | ⟨h1, h2, h3⟩
      · exact .inl same
      · exact .inr ⟨h1, h2, List.mem_cons_of_mem _ h3⟩

/-- A bank begins within the first bank's size. -/
theorem Bank.base_le (bank : Bank) : bank.base ≤ Config.bankSize := by cases bank <;> decide

/-- An erase cut off is the erase, with the bits listed undone or with none undone. -/
theorem Media.eraseCut_cases (m : Media) (torn : List Host.Cell) (bank : Bank) :
    m.eraseCut torn bank = m.erase torn bank ∧ (m.erase torn bank = m ∨ (m.erase torn bank).erasedByScan bank = true) ∨
      m.eraseCut torn bank = m.erase [] bank := by
  unfold Media.eraseCut
  split
  · rename_i h
    exact .inl ⟨rfl, h⟩
  · exact .inr rfl

/-- An erase cut off keeps the canonical form (R100). -/
theorem Media.eraseCut_wf (m : Media) (hm : m.wf = true) (torn : List Host.Cell) (bank : Bank) :
    (m.eraseCut torn bank).wf = true := by
  rcases m.eraseCut_cases torn bank with ⟨h, -⟩ | h <;> rw [h] <;> exact Media.erase_wf _ hm _ _

/-- A step cut off keeps the canonical form (R100). -/
theorem State.tornMedia_wf (s : State) (hm : s.media.wf = true) (torn : List Host.Cell) :
    (s.tornMedia torn).wf = true := by
  unfold State.tornMedia
  split
  · split
    · split
      · split
        · refine Media.program_wf _ hm _ _ _ ?_
          have := Bank.base_le ‹Bank›
          omega
        · exact hm
      · exact Media.eraseCut_wf _ hm _ _
    · exact hm
  · exact hm

/-- The media right after a reset are in canonical form. -/
theorem State.reset_media_wf : State.reset.media.wf = true := by decide

end Sys2Proof.Machine
end

