-- ==== Sys2Proof/Laws/Plans.lean ====
section
/-! SUPPORT. The window table: what putting a window in its place, and reading stored windows, make of it. -/

namespace Sys2Proof.Machine

/-- A window is put among those that stood there. -/
theorem mem_insertWindow (w x : Window) (ws : List Window) : x ∈ insertWindow w ws ↔ x = w ∨ x ∈ ws := by
  induction ws with
  | nil => simp [insertWindow]
  | cons y ws ih =>
    unfold insertWindow
    split <;> simp [ih, or_left_comm]

/-- Putting a window in keeps the order of id (R32). -/
theorem insertWindow_ordered (w : Window) (ws : List Window) (h : ws.Pairwise fun a b => a.id ≤ b.id) :
    (insertWindow w ws).Pairwise fun a b => a.id ≤ b.id := by
  induction ws with
  | nil => simp [insertWindow]
  | cons y ws ih =>
    obtain ⟨hy, hws⟩ := List.pairwise_cons.mp h
    unfold insertWindow
    split
    · refine List.pairwise_cons.mpr ⟨fun x hx => ?_, ih hws⟩
      rcases (mem_insertWindow w x ws).mp hx with rfl | hx
      · assumption
      · exact hy x hx
    · refine List.pairwise_cons.mpr ⟨fun x hx => ?_, h⟩
      rcases List.mem_cons.mp hx with rfl | hx
      · omega
      · have := hy x hx
        omega

/-- In a table in order a window goes behind those with its own id. -/
theorem insertWindow_filter (w : Window) (id : Nat) (ws : List Window) (h : ws.Pairwise fun a b => a.id ≤ b.id) :
    ((insertWindow w ws).filter fun x => decide (x.id = id)) = (ws ++ [w]).filter fun x => decide (x.id = id) := by
  induction ws with
  | nil => rfl
  | cons y ws ih =>
    obtain ⟨hy, hws⟩ := List.pairwise_cons.mp h
    unfold insertWindow
    split
    · simp only [List.filter_cons, ih hws, List.cons_append]
    · by_cases hw : w.id = id
      · have none : ((y :: ws).filter fun x => decide (x.id = id)) = [] := by
          simp only [List.filter_eq_nil_iff, List.mem_cons, decide_eq_true_eq]
          rintro x (rfl | hx)
          · omega
          · have := hy x hx
            omega
        rw [List.filter_append, none, List.filter_cons, none]
        simp [hw]
      · rw [List.filter_append, List.filter_cons]
        simp [hw]

/-- A window that is behind every other by id goes last. -/
theorem insertWindow_last (w : Window) (ws : List Window) (h : ∀ x ∈ ws, x.id ≤ w.id) :
    insertWindow w ws = ws ++ [w] := by
  induction ws with
  | nil => rfl
  | cons y ws ih =>
    rw [insertWindow, if_pos (h y (by simp)), ih fun x hx => h x (by simp [hx])]
    rfl

/-- The table of some windows stands in order of id, and holds for each id those windows in their order (R32). -/
theorem windowTable_spec (ws : List Window) :
    ((windowTable ws).Pairwise fun a b => a.id ≤ b.id) ∧
      ∀ id, ((windowTable ws).filter fun x => decide (x.id = id)) = ws.filter fun x => decide (x.id = id) := by
  induction ws using List.reverseRecOn with
  | nil => exact ⟨List.Pairwise.nil, fun _ => rfl⟩
  | append_singleton ws w ih =>
    have e : windowTable (ws ++ [w]) = insertWindow w (windowTable ws) := by simp [windowTable]
    rw [e]
    exact ⟨insertWindow_ordered _ _ ih.1, fun id => by
      rw [insertWindow_filter _ _ _ ih.1, List.filter_append, ih.2, List.filter_append]⟩

/-- Windows that stand in order of id are their own table. -/
theorem windowTable_of_ordered (ws : List Window) (h : ws.Pairwise fun a b => a.id ≤ b.id) : windowTable ws = ws := by
  induction ws using List.reverseRecOn with
  | nil => rfl
  | append_singleton ws w ih =>
    obtain ⟨h1, -, h2⟩ := List.pairwise_append.mp h
    have e : windowTable (ws ++ [w]) = insertWindow w (windowTable ws) := by simp [windowTable]
    rw [e, ih h1]
    exact insertWindow_last _ _ fun x hx => h2 x hx w (by simp)

end Sys2Proof.Machine
end

