-- ==== Sys2Proof/Laws/Store.lean ====
section
/-! SUPPORT. The Profile Store: the steps that write a record, the records in force in order, the scan's walk, and what a
program step leaves on the media. -/

namespace Sys2Proof.Machine

/-! ## Writing records (R108, R109) -/

/-- A body's rows: its bytes in order, 64 in each row but the last. -/
theorem bodyRows_spec (bank : Bank) (compacting : Bool) (k offset : Nat) (body : List Byte) (h : body.length ≤ k) :
    ∃ rows : List (List Byte), rows.flatten = body ∧ (∀ r ∈ rows, 1 ≤ r.length ∧ r.length ≤ 64) ∧
      (∀ r ∈ rows.dropLast, r.length = 64) ∧
      bodyRows bank compacting k offset body =
        rows.mapIdx fun k r => ⟨.program bank (offset + 64 * k) r, compacting, []⟩ := by
  induction k generalizing offset body with
  | zero => exact ⟨[], by simp_all [bodyRows]⟩
  | succ k ih =>
    by_cases hb : body = []
    · exact ⟨[], by simp [bodyRows, hb]⟩
    · have hl : 1 ≤ body.length := List.length_pos_of_ne_nil hb
      obtain ⟨rows, h1, h2, h3, h4⟩ := ih (offset + 64) (body.drop 64) (by rw [List.length_drop]; omega)
      refine ⟨body.take 64 :: rows, by simp [h1], fun r hr => ?_, fun r hr => ?_, ?_⟩
      · rcases List.mem_cons.mp hr with rfl | hr
        · rw [List.length_take]
          omega
        · exact h2 r hr
      · rcases rows with _ | ⟨x, xs⟩
        · simp at hr
        · rw [List.dropLast_cons_of_ne_nil (by simp)] at hr
          rcases List.mem_cons.mp hr with rfl | hr
          · have hx := h2 x (by simp)
            have : 1 ≤ (body.drop 64).length := by rw [← h1]; simp; omega
            rw [List.length_drop] at this
            rw [List.length_take]
            omega
          · exact h3 r hr
      · simp [bodyRows, hb, h4, programStep, List.mapIdx_cons, Nat.mul_add, Nat.add_assoc, Nat.add_comm]

/-- The steps of one record write it (R108). -/
theorem recordSteps_spec (bank : Bank) (offset : Nat) (header body : List Byte) (compacting : Bool)
    (onHeader onLive : List StoreEffect) :
    writesRecord (recordSteps bank offset header body compacting onHeader onLive) bank offset header body compacting
      onHeader onLive := by
  obtain ⟨rows, h1, h2, h3, h4⟩ := bodyRows_spec bank compacting body.length (offset + 32) body (le_refl _)
  exact ⟨rows, h1, h2, h3, by simp [recordSteps, Config.headerSize, h4, programStep, marking]⟩

/-! ## The records in force (R109) -/

theorem insertInForce_perm (x : InForce) (rs : List InForce) : (insertInForce x rs).Perm (x :: rs) := by
  induction rs with
  | nil => exact .refl _
  | cons y rs ih =>
    unfold insertInForce
    split
    · exact .refl _
    · exact (ih.cons y).trans (.swap _ _ _)

theorem insertInForce_sorted (x : InForce) (rs : List InForce) (h : rs.Pairwise fun a b => a.writeNumber ≤ b.writeNumber) :
    (insertInForce x rs).Pairwise fun a b => a.writeNumber ≤ b.writeNumber := by
  induction rs with
  | nil => simp [insertInForce]
  | cons y rs ih =>
    obtain ⟨h1, h2⟩ := List.pairwise_cons.mp h
    unfold insertInForce
    split
    · refine List.pairwise_cons.mpr ⟨fun a ha => ?_, h⟩
      rcases List.mem_cons.mp ha with rfl | ha
      · omega
      · have := h1 a ha
        omega
    · refine List.pairwise_cons.mpr ⟨fun a ha => ?_, ih h2⟩
      rcases List.mem_cons.mp ((insertInForce_perm x rs).mem_iff.mp ha) with rfl | ha
      · omega
      · exact h1 a ha

/-- The records in force stand in ascending order of write number (R109, step 3). -/
theorem Directory.inForce_ordered (d : Directory) : d.ordered d.inForce := by
  have fold : ∀ rs acc : List InForce, (rs.foldl (fun acc x => insertInForce x acc) acc).Perm (acc ++ rs) ∧
      (acc.Pairwise (fun a b => a.writeNumber ≤ b.writeNumber) →
        (rs.foldl (fun acc x => insertInForce x acc) acc).Pairwise fun a b => a.writeNumber ≤ b.writeNumber) := by
    intro rs
    induction rs with
    | nil => exact fun acc => ⟨by simp, id⟩
    | cons x rs ih =>
      intro acc
      obtain ⟨h1, h2⟩ := ih (insertInForce x acc)
      exact ⟨h1.trans (((insertInForce_perm x acc).append_right rs).trans List.perm_middle.symm),
        fun h => h2 (insertInForce_sorted _ _ h)⟩
  obtain ⟨h1, h2⟩ := fold d.records []
  exact ⟨h1, h2 .nil⟩

/-- Where a record in force is packed, if no earlier one has its offset (R109, step 3). -/
theorem packFrom_lookup (rs : List InForce) (at_ k : Nat) (h : k < rs.length)
    (first : ∀ j (h' : j < rs.length), j < k → rs[j].offset ≠ rs[k].offset) :
    (packFrom at_ rs).lookup rs[k].offset = some (at_ + ((rs.take k).map fun r => spaceFor r.bodyLength).sum) := by
  induction rs generalizing at_ k with
  | nil => simp at h
  | cons r rs ih =>
    cases k with
    | zero => simp [packFrom]
    | succ k =>
      have h0 := first 0 (by simp) (by omega)
      have hk : k < rs.length := Nat.lt_of_succ_lt_succ h
      have := ih (at_ + spaceFor r.bodyLength) k hk
        fun j h' hj => first (j + 1) (Nat.succ_lt_succ h') (Nat.succ_lt_succ hj)
      have skip : (packFrom at_ (r :: rs)).lookup rs[k].offset =
          (packFrom (at_ + spaceFor r.bodyLength) rs).lookup rs[k].offset := by
        rw [packFrom, List.lookup_cons, beq_eq_false_iff_ne.mpr (show rs[k].offset ≠ r.offset from h0.symm)]
        rfl
      show (packFrom at_ (r :: rs)).lookup rs[k].offset = _
      rw [skip, this, List.take_succ_cons, List.map_cons, List.sum_cons, Nat.add_assoc]

/-! ## The walk (R120) -/

theorem allErased_iff (bytes : List Byte) : allErased bytes = true ↔ ∀ b ∈ bytes, b = 0xFF#8 := by
  unfold allErased
  rw [List.all_eq_true]
  exact forall₂_congr fun b _ => decide_eq_true_iff

/-- The kind that a header's bytes spell. -/
theorem headerKind_iff (m : Media) (bank : Bank) (offset : Nat) (kind : HeaderKind) :
    headerKind (m.read (bank.base + offset + 1)).toNat (m.read (bank.base + offset + 2)).toNat = some kind ↔
      match kind with
      | .profile i => m.slice bank (offset + 1) 2 = [0x01#8, BitVec.ofNat 8 i.val]
      | .boot => m.slice bank (offset + 1) 1 = [0x02#8] := by
  simp only [Media.slice, Media.readMany, Nat.add_assoc, Nat.reduceAdd]
  generalize m.read (bank.base + (offset + 1)) = x
  generalize m.read (bank.base + (offset + 2)) = y
  have spells : ∀ (b : Byte) (n : Nat), n < 256 → (b.toNat = n ↔ b = BitVec.ofNat 8 n) := by
    intro b n hn
    rw [← BitVec.toNat_inj, BitVec.toNat_ofNat, Nat.mod_eq_of_lt hn]
  unfold headerKind
  cases kind with
  | profile i =>
    have hi := i.isLt
    have hy := spells y i.val (by omega)
    by_cases h1 : x.toNat = 1
    · rw [if_pos h1, (spells x 1 (by omega)).mp h1, finOfCode]
      by_cases h : y.toNat < 8
      · simp [h, Fin.ext_iff, hy]
      · simp [h, ← hy, show ¬ y.toNat = i.val by omega]
    · have hx : x ≠ 1#8 := fun e => h1 ((spells x 1 (by omega)).mpr e)
      simp [h1, hx]
  | boot =>
    by_cases h1 : x.toNat = 1
    · simp [(spells x 1 (by omega)).mp h1]
    · by_cases h2 : x.toNat = 2
      · simp [(spells x 2 (by omega)).mp h2]
      · have hx : x ≠ 2#8 := fun e => h2 ((spells x 2 (by omega)).mpr e)
        simp [h1, h2, hx]

/-- What the walk has seen behind some records. -/
def Walk.seeAll (w : Walk) (m : Media) (bank : Bank) (rs : List Walked) : Walk :=
  rs.foldl (fun w r => w.see m bank r.offset r.kind r.writeNumber r.bodyLength) w

/-- The walk reads packed records, ends where `Media.walks` says, and has seen each of them in turn (R120). -/
theorem Media.walk_spec (m : Media) (bank : Bank) (k offset : Nat) (w : Walk) (h : 16384 - offset < 32 * k) :
    ∃ rs stop, m.walks bank rs offset stop ∧ m.walk bank k offset w = { w.seeAll m bank rs with stop := stop } ∧
      (∀ r ∈ rs, offset ≤ r.offset) ∧ rs.Pairwise fun a b => a.offset < b.offset := by
  induction k generalizing offset w with
  | zero => omega
  | succ k ih =>
    have ends : ∀ stop, m.walks bank [] offset stop → m.walk bank (k + 1) offset w = { w with stop := stop } →
        ∃ rs stop, m.walks bank rs offset stop ∧
          m.walk bank (k + 1) offset w = { w.seeAll m bank rs with stop := stop } ∧
          (∀ r ∈ rs, offset ≤ r.offset) ∧ rs.Pairwise fun a b => a.offset < b.offset :=
      fun stop h1 h2 => ⟨[], stop, h1, h2, by simp, .nil⟩
    by_cases h1 : 16384 < offset + 32
    · exact ends offset (.inl ⟨.inl h1, rfl⟩) (by rw [Media.walk]; exact if_pos h1)
    by_cases h2 : allErased (m.slice bank offset 32) = true
    · exact ends offset (.inl ⟨.inr ((allErased_iff _).mp h2), rfl⟩)
        (by rw [Media.walk]; exact (if_neg h1).trans (if_pos h2))
    have some_bit : ∃ b ∈ m.slice bank offset 32, b ≠ 0xFF#8 := by
      simpa [allErased_iff] using h2
    have here : m.walk bank (k + 1) offset w =
        if (crc16 (m.slice bank (offset + 1) 24)).toNat = fromBe (m.slice bank (offset + 25) 2) then
          match headerKind (m.read (bank.base + offset + 1)).toNat (m.read (bank.base + offset + 2)).toNat with
          | none => { w with stop := 16384 }
          | some kind =>
            if fromBe (m.slice bank (offset + 7) 2) ≤ kind.maxBody ∧
                offset + recordSize (fromBe (m.slice bank (offset + 7) 2)) ≤ 16384 then
              m.walk bank k (offset + recordSize (fromBe (m.slice bank (offset + 7) 2)))
                (w.see m bank offset kind (fromBe (m.slice bank (offset + 3) 4)) (fromBe (m.slice bank (offset + 7) 2)))
            else { w with stop := 16384 }
        else { w with stop := 16384 } := by
      rw [Media.walk]
      exact (if_neg h1).trans (if_neg h2)
    have stops : (¬ ∃ r : Walked, r.offset = offset ∧ m.hasHeader bank r) → m.walks bank [] offset 16384 :=
      fun none => .inr ⟨⟨by omega, some_bit, none⟩, rfl⟩
    by_cases h3 : (crc16 (m.slice bank (offset + 1) 24)).toNat = fromBe (m.slice bank (offset + 25) 2)
    · rw [if_pos h3] at here
      cases hk : headerKind (m.read (bank.base + offset + 1)).toNat (m.read (bank.base + offset + 2)).toNat with
      | none =>
        simp only [hk] at here
        refine ends 16384 (stops ?_) here
        rintro ⟨r, rfl, -, -, -, kinds, -⟩
        rw [(headerKind_iff m bank r.offset r.kind).mpr kinds] at hk
        cases hk
      | some kind =>
        simp only [hk] at here
        by_cases h4 : fromBe (m.slice bank (offset + 7) 2) ≤ kind.maxBody ∧
            offset + recordSize (fromBe (m.slice bank (offset + 7) 2)) ≤ 16384
        · rw [if_pos h4] at here
          have size : 32 ≤ recordSize (fromBe (m.slice bank (offset + 7) 2)) := Nat.le_add_right _ _
          obtain ⟨rs, stop, r1, r2, r3, r4⟩ := ih (offset + recordSize (fromBe (m.slice bank (offset + 7) 2)))
            (w.see m bank offset kind (fromBe (m.slice bank (offset + 3) 4)) (fromBe (m.slice bank (offset + 7) 2)))
            (by omega)
          refine ⟨⟨offset, kind, fromBe (m.slice bank (offset + 3) 4), fromBe (m.slice bank (offset + 7) 2)⟩ :: rs, stop,
            ⟨rfl, ⟨Nat.not_lt.mp h1, some_bit, h3, (headerKind_iff m bank offset kind).mp hk, rfl, rfl, ?_, h4.2⟩, r1⟩,
            here.trans r2, fun r hr => ?_, List.pairwise_cons.mpr ⟨fun r hr => ?_, r4⟩⟩
          · cases kind <;> exact h4.1
          · rcases List.mem_cons.mp hr with rfl | hr
            · exact le_refl _
            · have := r3 r hr
              omega
          · have := r3 r hr
            show offset < r.offset
            omega
        · rw [if_neg h4] at here
          refine ends 16384 (stops ?_) here
          rintro ⟨r, rfl, -, -, -, kinds, -, body, bound, fits⟩
          rw [(headerKind_iff m bank r.offset r.kind).mpr kinds] at hk
          obtain rfl := Option.some.inj hk
          refine h4 (body ▸ ⟨?_, fits⟩)
          revert bound
          cases r.kind <;> exact id
    · rw [if_neg h3] at here
      refine ends 16384 (stops ?_) here
      rintro ⟨r, rfl, -, -, check, -⟩
      exact h3 check

/-! ## The end of a program step (R100, R102) -/

/-- What a program step that ends leaves on the media: no bit one that was zero, and nothing changed outside its row
(R100, R102). -/
theorem State.programEnds_media (s : State) (hm : s.media.wf = true) (faults : List Host.Cell) (job : Job)
    (step : MediaStep) (rest : List MediaStep) (bank : Bank) (offset : Nat) (data : List Byte)
    (ha : bank.base + offset + data.length ≤ 2 * Config.bankSize) (at_ : Nat) :
    let m := (s.media.program [] (bank.base + offset) data).force (bank.base + offset) data.length
      (s.media.onlyClears faults)
    (s.programEnds faults job step rest bank offset data).media = m ∧ m.read at_ &&& s.media.read at_ = m.read at_ ∧
      (¬ (bank.base + offset ≤ at_ ∧ at_ < bank.base + offset + data.length) → m.read at_ = s.media.read at_) := by
  obtain ⟨less, same⟩ := Media.read_program s.media hm [] (bank.base + offset) data ha at_
  refine ⟨?_, ?_⟩
  · unfold State.programEnds
    dsimp only
    split
    · simp
    · simp
  · rcases Media.read_force _ (Media.program_wf _ hm [] _ data ha) (bank.base + offset) data.length
      (s.media.onlyClears faults) ha at_ with h | ⟨h1, h2, h3⟩
    · rw [h]
      exact ⟨less, same⟩
    · refine ⟨?_, fun out => absurd ⟨h1, h2⟩ out⟩
      obtain ⟨c, -, e⟩ := List.mem_map.mp h3
      rw [Prod.mk.injEq] at e
      rw [← e.2, e.1]
      exact Byte.and_and_left _ _

end Sys2Proof.Machine
end

