-- ==== Sys2Proof/WellFormed.lean ====
section
/-! DEFINITION. The ranges the spec gives to the operands of a command. -/

namespace Sys2Proof

/-- A request frame's body has at most 250 bytes, three of which are type, tag and code (R138, R169). -/
def Req.wf (q : Req) : Bool := decide (q.params.length ≤ 247)

/-- Each address is a byte of the two banks of 16,384 (R100). -/
def cellsWf (cells : List Host.Cell) : Bool := cells.all fun c => decide (c.1 < 32768)

/-- The bytes after SYNC of a complete frame: LEN from 1 to 250, that many body bytes, two CRC bytes (R169). -/
def frameWf (bytes : List Byte) : Bool :=
  match bytes with
  | [] => false
  | n :: rest => decide (1 ≤ n.toNat ∧ n.toNat ≤ 250 ∧ rest.length = n.toNat + 2)

/-- Whether a command's operands are ones the spec allows. -/
def Instr.wf : Instr → Bool
  | .run q => q.wf
  | .finish q => q.wf
  | .halt q => q.wf
  | .planSetCycle q => q.wf
  | .planSetChannel q => q.wf
  | .planSetInput q => q.wf
  | .entryAdd q => q.wf
  | .entryRemove q => q.wf
  | .windowAdd q => q.wf
  | .windowRemove q => q.wf
  | .planClear q => q.wf
  | .planCopyActive q => q.wf
  | .planRead q => q.wf
  | .entryList q => q.wf
  | .windowList q => q.wf
  | .planCheck q => q.wf
  | .planCommit q => q.wf
  | .planAbandon q => q.wf
  | .channelHold q => q.wf
  | .channelSet q => q.wf
  | .channelPulse q => q.wf
  | .channelRelease q => q.wf
  | .captureRead q => q.wf
  | .captureFlush q => q.wf
  | .captureWatermark q => q.wf
  | .profileSave q => q.wf
  | .profileDelete q => q.wf
  | .bootSet q => q.wf
  | .storeFormat q => q.wf
  | .profileLoad q => q.wf
  | .profileList q => q.wf
  | .storeStatus q => q.wf
  | .restart q => q.wf
  | .hello q => q.wf
  | .goodbye q => q.wf
  | .status q => q.wf
  | .countersRead q => q.wf
  | .countersClear q => q.wf
  | .ack _ => true
  | .frameReceived bytes => frameWf bytes
  | .gapTimerExpiry => true
  | .transmitFrameEnd => true
  | .lapse => true
  | .resendTimerExpiry number => decide (number ≠ 0)
  | .inputEdge _ _ => true
  | .stopAsserted => true
  | .stopReleased => true
  | .timelineEdge => true
  | .endOfCycle => true
  | .windowOpen id => decide (1 ≤ id ∧ id ≤ 15)
  | .windowClose => true
  | .waitTimerExpiry => true
  | .manualPulseExpiry _ => true
  | .programStepEnd faults => cellsWf faults
  | .eraseEnd faults => cellsWf faults
  | .storeScanEnd => true
  | .powerUp torn => cellsWf torn
  | .resetLine torn => cellsWf torn
  | .resetEnd _ _ => true
  | .characterReceived _ _ => true
  | .rawLineChange _ _ => true
  | .powerLoss torn => cellsWf torn

end Sys2Proof
end

