-- ==== Sys2Proof/Tests/Slice0.lean ====
section
/-! SUPPORT. Tests: what WellFormed refuses, the spec's worked figures, and for each statement with hypotheses a state
and operands that meet them. Expected results come from spec/. -/

namespace Sys2Proof.Tests

open Sys2Proof Sys2Proof.Machine

set_option Elab.async false

/-! ## WellFormed (R169, R100, 05, R160) -/

/-- A request with some parameter bytes, of tag 5. -/
def rq (params : List Byte) : Req := ⟨5, 0, params⟩

theorem test_wf_request_length : (Instr.run (rq (List.replicate 247 0))).wf = true ∧
    (Instr.run (rq (List.replicate 248 0))).wf = false := by decide +kernel

theorem test_wf_frame : (Instr.frameReceived [3, 4, 0, 1, 0xD3, 0xFD]).wf = true ∧
    (Instr.frameReceived []).wf = false ∧ (Instr.frameReceived [0, 0, 0]).wf = false ∧
    (Instr.frameReceived [3, 4, 0, 1, 0xD3]).wf = false := by decide

theorem test_wf_cells : (Instr.programStepEnd [(32767, 0)]).wf = true ∧
    (Instr.programStepEnd [(32768, 0)]).wf = false ∧ (Instr.eraseEnd [(32768, 0)]).wf = false ∧
    (Instr.powerUp [(32768, 0)]).wf = false ∧ (Instr.resetLine [(32768, 0)]).wf = false ∧
    (Instr.powerLoss [(32768, 0)]).wf = false := by decide

theorem test_wf_numbers : (Instr.windowOpen 0).wf = false ∧ (Instr.windowOpen 16).wf = false ∧
    (Instr.windowOpen 15).wf = true ∧ (Instr.resendTimerExpiry 0).wf = false := by decide

theorem test_no_word_spells_a_command : decodeTableWord 16 0x0102 = none := rfl

/-! ## Formats (R170, R175, 11 "Worked example: one acknowledgement frame") -/

/-- The characters 1 to 9. -/
def digits : List Byte := [0x31, 0x32, 0x33, 0x34, 0x35, 0x36, 0x37, 0x38, 0x39]

theorem test_crc16_digits : crc16 digits = 0x29B1#16 := by decide +kernel

theorem test_crc32_digits : crc32 digits = 0xCBF43926#32 := by decide +kernel

theorem test_crc16_steps : crc16 [3] = 0xD193#16 ∧ crc16 [3, 4] = 0x08D8#16 ∧ crc16 [3, 4, 0] = 0x5908#16 := by
  decide +kernel

theorem test_ack_frame : frameOf (ackBody 1) = [0xD5, 0x03, 0x04, 0x00, 0x01, 0xD3, 0xFD] := by decide +kernel

/-! ## Plans (02 section 2.5, "Worked example: checking and expanding a plan") -/

/-- An entry with no optional group. -/
def plain (id offset : Nat) (channel : Fin 8) (action : Action) : Entry := ⟨id, offset, channel, action, none, none, none⟩

/-- The worked plan, with entry 11's channel, entry 30's width and spacing, and OUT3's use to be varied. -/
def workedWith (c11 : Fin 8) (width spacing : Nat) (out3 : Use) : Plan where
  cycle := { Plan.empty.cycle with length := 20000, startEdge := .rise }
  channels :=
    ⟨[⟨.activeHigh, .used⟩, ⟨.activeHigh, .used⟩, ⟨.activeLow, .used⟩, ⟨.activeHigh, out3⟩, ⟨.activeHigh, .unused⟩,
      ⟨.activeHigh, .unused⟩, ⟨.activeHigh, .unused⟩, ⟨.activeHigh, .unused⟩], rfl⟩
  inputs := Plan.empty.inputs
  entries :=
    [{ plain 5 0 3 .flip with every := some ⟨2, 0⟩ }, plain 10 1000 0 (.pulse 200), plain 11 1050 c11 (.pulse 50),
      { plain 20 5000 2 (.pulse 3000) with gate := some ⟨1, .high⟩ },
      { plain 30 12000 0 (.pulse width) with rep := some ⟨3, spacing⟩ }]
  windows := []

/-- The worked plan. -/
def worked : Plan := workedWith 1 100 2000 .used

theorem test_worked_plan_passes : worked.failure = none ∧ worked.expand.length = 13 := by decide +kernel

theorem test_worked_plan_expansion :
    worked.expand.map (fun e => (e.phase, e.channel, e.entry, e.occurrence)) =
      [(0, 3, 5, 0), (1000, 0, 10, 0), (1050, 1, 11, 0), (1100, 1, 11, 0), (1200, 0, 10, 0), (5000, 2, 20, 0),
        (8000, 2, 20, 0), (12000, 0, 30, 0), (12100, 0, 30, 0), (14000, 0, 30, 1), (14100, 0, 30, 1),
        (16000, 0, 30, 2), (16100, 0, 30, 2)] := by decide +kernel

theorem test_worked_plan_variations :
    (workedWith 1 100 4000 .used).failure = some (.offsetRange, some 30) ∧
      (workedWith 1 100 4000 .unused).failure = some (.offsetRange, some 30) ∧
      (workedWith 0 100 2000 .used).failure = some (.edgeSpacing, some 11) ∧
      (workedWith 1 2000 2000 .used).failure = some (.edgeSpacing, some 30) := by decide +kernel

theorem test_plan_body : Plan.ofBytes worked.bytes = some worked ∧ Plan.ofBytes (worked.bytes ++ [0]) = none := by
  decide +kernel

/-- R32, R174: a body with its window records out of order of id gives a table in order, which is saved in order. -/
theorem test_windows_in_order_of_id :
    let one : Window := ⟨1, 0, .rise, 0, 100, .notify⟩
    let nine : Window := ⟨9, 3, .fall, 5, 20000, .halt⟩
    let sorted : Plan := { worked with windows := [one, nine] }
    Plan.ofBytes ({ worked with windows := [nine, one] } : Plan).bytes = some sorted ∧
      sorted.bytes.drop (sorted.bytes.length - 20) = one.bytes ++ nine.bytes := by
  decide +kernel

/-! ## States the tests start from -/

/-- Start-up is COMPLETE and a session OPEN; the STOP line is released, the sequencer IDLE. -/
def up : State :=
  { State.reset with
    startup := { State.reset.startup with stage := .complete }
    session := { State.reset.session with isOpen := true } }

/-- With the worked plan staged and active, its channels applied. -/
def loaded : State :=
  State.applyChannelBlock
    { up with
      plans := { up.plans with staged := worked, active := worked }
      timeline := { up.timeline with edges := worked.expand } }

/-- In a running state at a phase. -/
def inMode (s : State) (mode : Mode) (phase : Nat) : State := { s with seq := { s.seq with mode := mode, phase := phase } }

/-- With the filtered STOP line asserted. -/
def stopped (s : State) : State :=
  { s with filters := { s.filters with stop := { s.filters.stop with level := .low } } }

/-- With a commit pending. -/
def committed (s : State) : State :=
  { s with plans := { s.plans with commitPending := true, outcome := .pending } }

/-- With the active plan TRIGGERED on the rise of IN0, a guard of 500 and the starve limit 1 ms. -/
def triggered (s : State) : State :=
  let block : CycleBlock := { s.plans.active.cycle with source := .triggered, guard := 500, starveLimit := 1 }
  { s with plans := { s.plans with active := { s.plans.active with cycle := block } } }

/-- With the store READY on bank A and a profile in slot 2. -/
def stored (s : State) (free : Nat) : State :=
  { s with
    store :=
      { s.store with
        status := .ready
        dir :=
          { s.store.dir with
            bank := some .a, free := free, slots := s.store.dir.slots.set 2 (some ⟨3, [0x41], 64, 32⟩) } } }

/-- With another store status. -/
def withStatus (s : State) (status : StoreStatus) : State := { s with store := { s.store with status := status } }

/-- Ready for any request, by a check that evaluates. -/
def calm (s : State) : Bool :=
  s.live && decide (s.startup.stage = .complete) && s.session.isOpen && s.canTake && decide (s.link.waiting = none) &&
    decide (s.session.cache = [])

theorem calm_ready {s : State} (h : calm s = true) (code : Nat) (q : Req) : s.ready code q := by
  simp only [calm, Bool.and_eq_true, decide_eq_true_eq] at h
  obtain ⟨⟨⟨⟨⟨h1, h2⟩, h3⟩, h4⟩, h5⟩, h6⟩ := h
  refine ⟨h1, h2, h3, h4, .inl h5, ?_⟩
  simp [State.cachedReply, h6]

theorem up_ready (code : Nat) (q : Req) : up.ready code q := calm_ready (by decide) code q

theorem loaded_ready (code : Nat) (q : Req) : loaded.ready code q := calm_ready (by decide +kernel) code q

/-! ## One step, from the spec's worked sequences -/

/-- A part of the state after a command's step; the reset state's where the step does not answer next. -/
def after {α : Type} (c : Instr) (s : State) (f : State → α) : α :=
  match step { s with pending := [c] } with
  | .next t => f t
  | _ => f State.reset

/-- 03 section 3.5: RUN with count 4 starts cycle 1, whose FLIP of OUT3 the divider leaves out. -/
theorem test_run_starts_cycle_one :
    after (.run (rq [0, 4])) loaded (fun t => (t.seq.mode, t.seq.cycle, t.seq.phase, t.seq.remaining)) =
        (.cycling, 1#32, 0, some 3) ∧
      after (.run (rq [0, 4])) loaded (fun t => ((t.channels.get 3).level, t.timeline.next)) = (.inactive, 1) := by
  decide +kernel

/-- 03 section 3.5: in cycle 1 at phase 5,000, IN1 HIGH, entry 20's start is applied and OUT2's line goes low. -/
theorem test_gated_pulse_start :
    after .timelineEdge
      { inMode loaded .cycling 5000 with
        seq := { loaded.seq with mode := .cycling, phase := 5000, cycle := 1 }
        timeline := { loaded.timeline with next := 5 }
        filters :=
          { loaded.filters with inputs := loaded.filters.inputs.set 1 ⟨.high, .high, none, 0, none, false⟩ } }
      (fun t => ((t.channels.get 2).line, t.timeline.tallies.get 2)) = (some .low, ⟨1, 0, 0, 0⟩) := by
  decide +kernel

/-- 03 section 3.5: with IN1 LOW it is gated off and marked. -/
theorem test_gated_off :
    after .timelineEdge
      { loaded with
        seq := { loaded.seq with mode := .cycling, phase := 5000, cycle := 3 }
        timeline := { loaded.timeline with next := 5 } }
      (fun t => ((t.channels.get 2).line, t.timeline.tallies.get 2, t.timeline.marks)) =
        (some .high, ⟨0, 1, 0, 0⟩, [(⟨20, 0⟩, .gated)]) := by
  decide +kernel

/-- 02 section 2.6, step 1 of the worked sequence: PLAN_COMMIT in CYCLING is PENDING with 13 edges. -/
theorem test_commit_pends :
    after (.planCommit (rq [])) (inMode loaded .cycling 7) (fun t =>
      (t.plans.commitPending, t.plans.outcome, t.link.tx)) =
        (true, .pending, .sending (.reply 17 (.pending 13)) (frameOf [2, 5, 17, 2, 0, 0, 13])) := by
  decide +kernel

/-- R68, R72: CHANNEL_RELEASE is taken under STOP, and the USED channel stays DRIVEN at INACTIVE. -/
theorem test_release_under_stop :
    after (.channelRelease (rq [0]))
      { stopped loaded with channels := loaded.channels.modify 0 fun c => { c with hold := .held } }
      (fun t => ((t.channels.get 0).hold, (t.channels.get 0).drive)) = (.free, .driven) := by
  decide +kernel

/-- In the last tick of a cycle with a commit pending: in the new plan OUT0 has the other sense and an ON at phase 0. -/
def swapping : State :=
  let next : Plan := { workedWith 1 100 2000 .used with entries := [plain 1 0 0 .on] }
  let next : Plan := { next with channels := next.channels.set 0 ⟨.activeLow, .used⟩ }
  let s := committed loaded
  { s with
    seq := { s.seq with mode := .cycling, phase := 19999, endDue := true, cycle := 1 }
    plans := { s.plans with staged := next, stagedTimeline := next.expand }
    timeline := { s.timeline with next := 13, marks := [(⟨1, 0⟩, .gated)] } }

/-- R5, R63: at the cycle start the FREE channel takes its record, then the new plan's edge; a HELD one takes the sense, and
the edge is suppressed. -/
theorem test_swap_before_phase_zero :
    after .endOfCycle swapping (fun t =>
      ((t.channels.get 0).sense, (t.channels.get 0).line, t.timeline.tallies.get 0, t.timeline.next, t.timeline.marks)) =
        (.activeLow, some .low, ⟨1, 0, 0, 0⟩, 1, []) ∧
      after .endOfCycle
        { swapping with channels := swapping.channels.modify 0 fun c => { c with hold := .held, level := .inactive } }
        (fun t => ((t.channels.get 0).sense, (t.channels.get 0).line, t.timeline.tallies.get 0)) =
        (.activeLow, some .high, ⟨0, 0, 1, 0⟩) := by
  decide +kernel

/-- R6, R16, R63: a finished run applies the pending commit: the FREE channel is INACTIVE under the new sense, the timeline
is new. -/
theorem test_swap_at_halt :
    after .endOfCycle
      { swapping with
        seq := { swapping.seq with finish := true }
        channels := swapping.channels.modify 0 fun c => { c with level := .active } }
      (fun t => (t.seq.mode, (t.channels.get 0).line, t.timeline.edges.length, t.timeline.next, t.timeline.marks)) =
        (.halted, some .high, 1, 0, []) := by
  decide +kernel

/-- R9, R10: a start edge below the guard is early, one at the guard cuts the cycle and starts the next. -/
theorem test_guard_boundary :
    (triggered (inMode loaded .cycling 499)).decision 0 .rise = .early ∧
      (triggered (inMode loaded .cycling 500)).decision 0 .rise = .cutStarted ∧
      (triggered (inMode loaded .cycling 500)).decision 0 .fall = .plain := by
  decide +kernel

/-- R101, R112: the scan of a store never written formats it: the first step erases bank A. -/
theorem test_scan_formats_new_media :
    after (.resetEnd .high .low) State.reset (fun t =>
      (t.link.rate, t.startup.stage, (t.store.job.map fun j => j.steps.head?.map MediaStep.act))) =
        (.r921600, .scanning, some (some (.erase .a))) := by
  decide +kernel

/-- R156, R172: the finish flag, listed as set or clear, is coded 0 and 1; the STOP line, asserted or released, 0 and 1. -/
theorem test_status_flags :
    ({ up with seq := { up.seq with finish := true } } : State).statusPayload.getD 9 9 = 0 ∧
      up.statusPayload.getD 9 9 = 1 ∧ up.statusPayload.getD 16 9 = 1 ∧ (stopped up).statusPayload.getD 16 9 = 0 := by
  decide +kernel

/-- R101, R112, R118: a format reads both erase counts, an unreadable one as the other bank's. -/
theorem test_format_reads_counts :
    after (.storeFormat (rq [])) { stored up 96 with media := Media.putAll [] 0 (freshHeader 411) } (fun t =>
      (t.store.countA, t.store.countB, t.store.status)) = (411, 411, .busy) := by
  decide +kernel

/-- R112: a bank whose erase was cut off is CURRENT only if the erase had not begun. -/
theorem test_cut_off_erase :
    let m := Media.putAll [] 0 [0xF8, 0, 0, 0, 1, 0, 0, 0, 1] ++ [(40, 0x12)]
    let m := Media.putAll m 9 (be2 (crc16 (be4 1)).toNat)
    let all : List Host.Cell := (List.range 64).map fun k => (k, 0xFF)
    m.bankState .a = some .current ∧ m.eraseCut all .a = m ∧ m.eraseCut (all.take 40) .a = [] ∧
      (m.eraseCut [(0, 0xFF), (9, 0xFF)] .a).bankState .a = none := by
  decide +kernel

/-- R74: with depth 0 a change behind an edge is an edge of the next tick; a change and its return in one tick leave the
candidate its age. -/
theorem test_one_sample_a_tick :
    (let f := ((⟨.high, .low, some 0, 0, none, false⟩ : Filter).settle).sample .low;
      f.due = false ∧ (f.tick 0).due = true ∧ (f.tick 0).slope = .fall) ∧
      (let f : Filter := ⟨.high, .low, some 3, 5, some 2, false⟩; (f.sample .low).cand = none ∧
        (f.sample .low).sample .high = f) := by
  decide

/-- R100, R102: a marking that reads back as 0xFF leaves the state byte as it was, and the store READ_ONLY. -/
theorem test_failed_marking_keeps_zeros :
    after (.programStepEnd [(32, 0xFF)])
      { up with
        media := [(32, 0xFC)]
        store :=
          { up.store with
            status := .busy, job := some ⟨.op .format, [marking .a 32 0xF8 false []], false, false, false, 0⟩ } }
      (fun t => (t.media.read 32, recordStateOf (t.media.read 32), t.store.status)) = (0xFC, .written, .readOnly) := by
  decide +kernel

/-- R160: after 65,535 comes 1, and a number an entry carries is skipped. -/
theorem test_notice_numbers :
    (⟨[⟨1, .report (.committed none), 1, 0, false, false, none⟩], 65535, 250⟩ : Notices).fresh = 65535 ∧
      (⟨[⟨1, .report (.committed none), 1, 0, false, false, none⟩], 1, 250⟩ : Notices).fresh = 2 ∧
      numberAfter 65535 = 1 := by
  decide +kernel

/-- R136, R138, R166: the worked ACK frame, byte for byte, is taken by the part's own clock and removes notice 1. -/
theorem test_ack_by_frame :
    after (.frameReceived [0x03, 0x04, 0x00, 0x01, 0xD3, 0xFD]) up (fun t =>
      (t.link.waiting, t.link.counters.framesGood, t.frameDue)) =
        (some ⟨[4, 0, 1], 0xD3FD⟩, 1, [.takeFrame ⟨[4, 0, 1], 0xD3FD⟩]) := by
  decide +kernel

end Sys2Proof.Tests
end

