-- ==== Sys2Proof/Tests/Witnesses.lean ====
section
/-! SUPPORT. For each statement with hypotheses, states and operands that meet them, each clause at a boundary of its
range. -/

namespace Sys2Proof.Tests

open Sys2Proof Sys2Proof.Machine

set_option Elab.async false

/-! ## The queue, the clock, run control -/

theorem test_hyps_StepRunsTheFrontCommand :
    ({ up with pending := [.lapse, .stopAsserted] } : State).pending = .lapse :: [.stopAsserted] := rfl

theorem test_hyps_IdleStepTakesWhatIsDueOrTicks :
    State.reset.pending = [] ∧ State.reset.live = false ∧ up.pending = [] ∧ up.live = true ∧ up.dueAll = [] ∧
      ({ up with channels := up.channels.modify 7 fun c => { c with manual := some 0 } } : State).dueAll =
        [.command (.manualPulseExpiry 7)] ∧
      ({ up with channels := (up.channels.modify 6 fun c => { c with manual := some 0 }).modify 7 fun c =>
            { c with manual := some 0 } } : State).dueAll =
        .command (.manualPulseExpiry 6) :: .command (.manualPulseExpiry 7) :: [] ∧
      ({ up with link := { up.link with asm := ⟨.length, [], none, some 3999⟩ } } : State).dueAll = [] ∧
      ({ up with session := { up.session with lapseTime := 100, lapseTimer := some 99999 } } : State).dueAll = [] ∧
      (inMode loaded .cycling 19998).seq.phase + 1 < (inMode loaded .cycling 19998).plans.active.cycle.length ∧
      (inMode loaded .cycling 19999).plans.active.cycle.length ≤ (inMode loaded .cycling 19999).seq.phase + 1 := by
  decide +kernel

theorem test_hyps_RunStartsARun :
    (∀ code q, loaded.ready code q) ∧ (rq []).params = [] ∧ (rq [0xFF, 0xFF]).params = be2 65535 ∧
      loaded.seq.mode = .idle ∧ loaded.stopAsserted = false ∧ loaded.plans.active.hasWork = true ∧
      loaded.plans.commitPending = false ∧ loaded.plans.active.cycle.source = .internal ∧
      (∀ code q, (triggered loaded).ready code q) ∧ (triggered loaded).plans.active.cycle.source = .triggered ∧
      (inMode loaded .halted 0).seq.mode = .halted :=
  ⟨loaded_ready, rfl, by decide, rfl, by decide +kernel, by decide +kernel, rfl, rfl,
    calm_ready (by decide +kernel), rfl, rfl⟩

theorem test_hyps_FinishAndHaltEndTheRun :
    (∀ code q, (inMode loaded .cycling 7).ready code q) ∧ (∀ code q, (inMode loaded .armed 0).ready code q) ∧
      (∀ code q, (inMode loaded .waiting 20000).ready code q) ∧ (inMode loaded .armed 0).seq.mode.running = true ∧
      (∀ code q, swapping.ready code q) ∧ swapping.seq.mode.running = true ∧ swapping.plans.commitPending = true ∧
      (swapping.channels.get 0).hold = .free ∧
      (swapping.channels.get 0).sense ≠ (swapping.plans.staged.channels.get 0).sense :=
  ⟨calm_ready (by decide +kernel), calm_ready (by decide +kernel), calm_ready (by decide +kernel), rfl,
    calm_ready (by decide +kernel), rfl, rfl, by decide +kernel, by decide +kernel⟩

theorem test_hyps_RunControlRefusals :
    (∀ code q, (inMode loaded .cycling 7).ready code q) ∧ (inMode loaded .cycling 7).seq.mode.running = true ∧
      (∀ code q, (stopped loaded).ready code q) ∧ (stopped loaded).stopAsserted = true ∧ (∀ code q, up.ready code q) ∧
      up.seq.mode.running = false ∧ up.stopAsserted = false ∧ up.plans.active.hasWork = false ∧
      (rq [0xFF, 0xFF]).params = be2 65535 ∧ (rq [0, 0]).params = be2 0 :=
  ⟨calm_ready (by decide +kernel), rfl, calm_ready (by decide +kernel), by decide +kernel, up_ready, rfl, by decide,
    by decide, by decide, by decide⟩

/-! ## Plans -/

theorem test_hyps_PlanSetCycleReplacesPresentFields :
    (∀ code q, up.ready code q) ∧ up.plans.commitPending = false ∧
      readSetCycle (rq [2, 0, 0, 100]).params = some ⟨none, some 100, none, none, none, none, none⟩ ∧
      100 ≤ 100 ∧ 100 ≤ 16777215 ∧
      readSetCycle (rq [2, 0, 0, 99]).params = some ⟨none, some 99, none, none, none, none, none⟩ ∧
      ¬ (100 ≤ 99 ∧ 99 ≤ 16777215) ∧
      readSetCycle (rq [0x59, 1, 3, 1, 1]).params = some ⟨some 1, none, none, some 3, some 1, none, some 1⟩ ∧
      readSetCycle (rq [0x59, 2, 4, 2, 2]).params = some ⟨some 2, none, none, some 4, some 2, none, some 2⟩ ∧
      readSetCycle (rq [0x24, 0xFF, 0xFF, 0xFF, 0xFF, 0xFF]).params =
        some ⟨none, none, some 16777215, none, none, some 65535, none⟩ :=
  ⟨up_ready, rfl, by decide, by decide, by decide, by decide, by decide, by decide, by decide, by decide⟩

theorem test_hyps_PlanSetChannelAndInputReplaceOneRecord :
    (∀ code q, up.ready code q) ∧ up.plans.commitPending = false ∧
      readSetPair (rq [7, 3, 1, 1]).params = some ⟨7, some 1, some 1⟩ ∧
      7 = (7 : Fin 8).val ∧ 3 = (3 : Fin 4).val ∧
      readSetPair (rq [3, 3, 15, 3]).params = some ⟨3, some 15, some 3⟩ ∧
      readSetPair (rq [8, 0]).params = some ⟨8, none, none⟩ ∧
      readSetPair (rq [7, 3, 2, 2]).params = some ⟨7, some 2, some 2⟩ ∧
      readSetPair (rq [7, 3, 1, 2]).params = some ⟨7, some 1, some 2⟩ ∧
      readSetPair (rq [4, 0]).params = some ⟨4, none, none⟩ ∧
      readSetPair (rq [3, 3, 16, 4]).params = some ⟨3, some 16, some 4⟩ ∧
      readSetPair (rq [3, 3, 15, 4]).params = some ⟨3, some 15, some 4⟩ :=
  ⟨up_ready, rfl, by decide, by decide, by decide, by decide, by decide, by decide, by decide, by decide, by decide,
    by decide⟩

theorem test_hyps_EntryAndWindowAddInsertInOrder :
    (∀ code q, loaded.ready code q) ∧ loaded.plans.commitPending = false ∧
      readEntryAdd (rq [10, 0, 0, 1, 0, 0, 0]).params = some ⟨10, 1, 0, 0, none, none, none, none⟩ ∧
      (⟨10, 1, 0, 0, none, none, none, none⟩ : RawEntry).check = .ok (plain 10 1 0 .on) ∧
      (∃ x ∈ loaded.plans.staged.entries, x.id = (plain 10 1 0 .on).id) ∧
      (∀ x ∈ loaded.plans.staged.entries, x.id ≠ (plain 255 1 0 .on).id) ∧
      loaded.plans.staged.entries.length < 64 ∧ 64 ≤ (List.replicate 64 (plain 1 0 0 .on)).length ∧
      (⟨0, 1, 0, 0, none, none, none, none⟩ : RawEntry).check = .error 1 ∧
      readWindowAdd (rq [15, 0, 0, 0, 0, 0, 0, 0, 1, 0]).params = some ⟨15, 0, 0, 0, 1, 0⟩ ∧
      (⟨15, 0, 0, 0, 1, 0⟩ : RawWindow).check = .ok ⟨15, 0, .rise, 0, 1, .notify⟩ ∧
      (⟨16, 0, 0, 0, 1, 0⟩ : RawWindow).check = .error 1 ∧ loaded.plans.staged.windows.length < 8 :=
  ⟨loaded_ready, rfl, by decide, by rfl, by decide +kernel, by decide +kernel, by decide +kernel, by decide +kernel, by rfl,
    by decide, by rfl, by rfl, by decide +kernel⟩

theorem test_hyps_EntryAndWindowRemoveRemoveTheRow :
    (∀ code q, loaded.ready code q) ∧ loaded.plans.commitPending = false ∧ (rq [255]).params = [255] ∧
      (∃ x ∈ loaded.plans.staged.entries, x.id = (30 : Byte).toNat) ∧
      (∀ x ∈ loaded.plans.staged.entries, x.id ≠ (255 : Byte).toNat) ∧ (15 : Byte).toNat ≤ 15 ∧
      15 < (16 : Byte).toNat ∧ (∀ x ∈ loaded.plans.staged.windows, x.id ≠ (15 : Byte).toNat) :=
  ⟨loaded_ready, rfl, rfl, by decide +kernel, by decide +kernel, by decide, by decide, by decide +kernel⟩

theorem test_hyps_PlanClearAndCopyActiveReplaceTheStagedPlan :
    (∀ code q, loaded.ready code q) ∧ loaded.plans.commitPending = false ∧
      (∀ code q, (committed loaded).ready code q) ∧ (committed loaded).plans.commitPending = true :=
  ⟨loaded_ready, rfl, calm_ready (by decide +kernel), rfl⟩

theorem test_hyps_EditsWaitForAPendingCommit :
    (∀ code q, (committed loaded).ready code q) ∧ (committed loaded).plans.commitPending = true ∧
      (readSetCycle [0]).isSome = true ∧ (readSetPair [9, 0]).isSome = true ∧
      (readEntryAdd [0, 0, 0, 0, 0, 0, 0]).isSome = true ∧ (readOne [0]).isSome = true ∧
      (readWindowAdd [0, 0, 0, 0, 0, 0, 0, 0, 0, 0]).isSome = true :=
  ⟨calm_ready (by decide +kernel), rfl, by decide, by decide, by decide, by decide, by decide⟩

theorem test_hyps_PlanReadAndListsReturnThePlan :
    (∀ code q, loaded.ready code q) ∧ (rq [1, 63]).params = [1, 63] ∧ (rq [2, 64]).params = [2, 64] ∧ (63 : Byte).toNat < 64 ∧ 64 ≤ (64 : Byte).toNat ∧
      (7 : Byte).toNat < 8 ∧ 8 ≤ (8 : Byte).toNat ∧ 1 < (2 : Byte).toNat :=
  ⟨loaded_ready, rfl, rfl, by decide, by decide, by decide, by decide, by decide⟩

/-- The worked plan staged with entry 11 moved to OUT0, which fails EDGE_SPACING. -/
def failing : State := { loaded with plans := { loaded.plans with staged := workedWith 0 100 2000 .used } }

theorem worked_inRange : worked.inRange := by
  refine ⟨by decide, by decide, by decide, by decide, by decide, by decide, by decide, ?_, by simp [worked, workedWith]⟩
  intro e he
  simp only [worked, workedWith, List.mem_cons, List.not_mem_nil, or_false] at he
  rcases he with rfl | rfl | rfl | rfl | rfl <;> simp [Entry.inRange, plain]

theorem test_hyps_PlanCheckReports :
    (∀ code q, loaded.ready code q) ∧ loaded.plans.staged.failure = none ∧ (∀ code q, failing.ready code q) ∧
      failing.plans.staged.failure = some (.edgeSpacing, some 11) ∧ worked.inRange ∧ worked.failure = none :=
  ⟨loaded_ready, by decide +kernel, calm_ready (by decide +kernel), by decide +kernel, worked_inRange, by decide +kernel⟩

theorem test_hyps_PlanCommitIsRefusedWaitsOrSwaps :
    (∀ code q, (committed loaded).ready code q) ∧ (∀ code q, failing.ready code q) ∧
      failing.plans.commitPending = false ∧ failing.plans.staged.failure = some (.edgeSpacing, some 11) ∧
      (∀ code q, (inMode loaded .waiting 20000).ready code q) ∧ (inMode loaded .waiting 20000).seq.mode.running = true ∧
      (∀ code q, loaded.ready code q) ∧ loaded.seq.mode.running = false ∧ loaded.plans.staged.failure = none :=
  ⟨calm_ready (by decide +kernel), calm_ready (by decide +kernel), rfl, by decide +kernel,
    calm_ready (by decide +kernel), rfl, loaded_ready, rfl, by decide +kernel⟩

theorem test_hyps_PlanAbandonFollowsTheOutcome :
    (∀ code q, (committed loaded).ready code q) ∧ (committed loaded).plans.outcome = .pending ∧
      (∀ code q, loaded.ready code q) ∧ loaded.plans.outcome = .none ∧
      calm { loaded with plans := { loaded.plans with outcome := .applied (some 882) } } = true :=
  ⟨calm_ready (by decide +kernel), rfl, loaded_ready, rfl, by decide +kernel⟩

/-! ## Channels and captures -/

/-- OUT0 HELD. -/
def held (s : State) : State := { s with channels := s.channels.modify 0 fun c => { c with hold := .held } }

/-- OUT0 HELD with a manual pulse. -/
def pulsing (s : State) : State :=
  { s with channels := s.channels.modify 0 fun c => { c with hold := .held, manual := some 9 } }

theorem test_hyps_ChannelHoldAndReleaseTakeAndFree :
    (∀ code q, loaded.ready code q) ∧ (7 : Byte).toNat = (7 : Fin 8).val ∧ 8 ≤ (8 : Byte).toNat ∧
      loaded.stopAsserted = false ∧ (∀ code q, (stopped loaded).ready code q) ∧ (stopped loaded).stopAsserted = true ∧
      (loaded.channels.get 0).use = .used ∧ (loaded.channels.get 7).use = .unused ∧ (loaded.channels.get 7).hold = .free ∧
      (∀ code q, (held loaded).ready code q) ∧ ((held loaded).channels.get 0).hold = .held :=
  ⟨loaded_ready, rfl, by decide, by decide +kernel, calm_ready (by decide +kernel), by decide +kernel, by decide +kernel,
    by decide +kernel, by decide +kernel, calm_ready (by decide +kernel), by decide +kernel⟩

theorem test_hyps_ChannelSetAndPulseNeedAHeldIdleChannel :
    (∀ code q, (held loaded).ready code q) ∧ (rq [0, 1]).params = [0, 1] ∧ 8 ≤ (8 : Byte).toNat ∧
      (7 : Byte).toNat < 8 ∧ (rq [0, 0xFF, 0xFF]).params = 0#8 :: be2 65535 ∧ (rq [0, 0, 1]).params = 0#8 :: be2 1 ∧
      (1 : Byte).toNat ≤ 1 ∧ 1 < (2 : Byte).toNat ∧ ((held loaded).channels.get 0).hold = .held ∧
      ((held loaded).channels.get 0).manual = none ∧ (held loaded).stopAsserted = false ∧
      (∀ code q, (pulsing loaded).ready code q) ∧ ((pulsing loaded).channels.get 0).manual ≠ none ∧
      (loaded.channels.get 0).hold = .free ∧ (stopped loaded).stopAsserted = true :=
  ⟨calm_ready (by decide +kernel), rfl, by decide, by decide, by decide, by decide, by decide, by decide,
    by decide +kernel, by decide +kernel, by decide +kernel, calm_ready (by decide +kernel), by decide +kernel,
    by decide +kernel, by decide +kernel⟩

/-- Some records in the capture queue. -/
def capturing (s : State) (n : Nat) : State :=
  { s with
    captures :=
      { s.captures with records := List.replicate n ⟨0, 0, .rise, 1, 2, .inCycle, .none, none, none⟩ } }

theorem test_hyps_CaptureReadAndFlushRemoveRecords :
    (∀ code q, (capturing up 12).ready code q) ∧ (rq [12]).params = [12] ∧ 1 ≤ (1 : Byte).toNat ∧ (12 : Byte).toNat ≤ 12 ∧
      12 < (13 : Byte).toNat :=
  ⟨calm_ready (by decide +kernel), rfl, by decide, by decide, by decide⟩

theorem test_hyps_CaptureWatermarkIsEvaluatedAtOnce :
    (∀ code q, (capturing up 12).ready code q) ∧ (128 : Byte).toNat ≤ 128 ∧ 128 < (129 : Byte).toNat ∧
      (capturing up 12).captures.records.length < (13 : Byte).toNat ∧
      (12 : Byte).toNat ≤ (capturing up 12).captures.records.length :=
  ⟨calm_ready (by decide +kernel), by decide, by decide, by decide, by decide⟩

/-! ## The profile store -/

theorem test_hyps_ProfileSaveIsAccepted :
    (∀ code q, (stored up 16352).ready code q) ∧ (rq [7, 1, 0x41]).params = 7 :: 1 :: [0x41] ∧ nameOk [0x41] = true ∧
      nameOk [] = false ∧ nameOk [0x1F] = false ∧ (7 : Byte).toNat = (7 : Fin 8).val ∧ 8 ≤ (8 : Byte).toNat ∧
      (stored up 16352).store.status = .ready ∧ (stored up 16352).store.dir.bank = some .a ∧
      32 + (up.plans.active.bytes.length + 15) / 16 * 16 = 96 ∧ (stored up 96).store.dir.free = 96 ∧
      (stored up 95).store.dir.free < 96 ∧
      (stored up 95).media.bankState Bank.a.other ≠ some .fresh ∧ (stored up 95).media.takenCount Bank.a.other = 0 ∧
      Media.bankState [(16389, 0), (16390, 0), (16391, 0xC3), (16392, 0x50)] .b ≠ some .fresh ∧
      Media.takenCount ((Media.putAll [] 0 (freshHeader 50000)).putAll 16384 [0]) .b = 50000 ∧
      calm (withStatus (stored up 96) .busy) = true ∧ calm (withStatus (stored up 96) .readOnly) = true :=
  ⟨calm_ready (by decide +kernel), rfl, by decide, by decide, by decide, rfl, by decide, rfl, rfl, by decide +kernel, rfl,
    by decide, by decide +kernel, by decide +kernel, by decide +kernel, by decide +kernel, by decide +kernel,
    by decide +kernel⟩

theorem test_hyps_StoreOperationsWriteInOrder :
    ([7, 1] : List Byte) =
        [match some (7 : Fin 8) with | some i => BitVec.ofNat 8 i.val | none => 0xFF#8, if true = true then 1#8 else 0#8] ∧
      (let d := (stored up 96).store.dir;
        d.slots.get 7 = none ∧ d.boot = none ∧ d.slots.get 2 = some ⟨3, [0x41], 64, 32⟩ ∧ d.inForce = [⟨3, 32, 64⟩]) := by
  decide +kernel

theorem test_hyps_ProfileDeleteAndFormatAreAccepted :
    (∀ code q, (stored up 96).ready code q) ∧ (stored up 96).store.dir.slots.get 2 = some ⟨3, [0x41], 64, 32⟩ ∧
      (stored up 96).store.dir.slots.get 7 = none ∧ 8 ≤ (8 : Byte).toNat ∧
      calm (withStatus (stored up 96) .busy) = true ∧ calm (withStatus (stored up 96) .readOnly) = true ∧
      (stored up 96).media.takenCount .a < 50000 ∧ (stored up 96).media.takenCount .b < 50000 ∧
      Media.takenCount (Media.putAll [] 0 (freshHeader 50000)) .a = 50000 :=
  ⟨calm_ready (by decide +kernel), by decide +kernel, by decide +kernel, by decide, by decide +kernel, by decide +kernel,
    by decide +kernel, by decide +kernel, by decide +kernel⟩

/-- With bank B unreadable and worn out by A's count. -/
def worn (s : State) : State := { s with media := (Media.putAll [] 0 (freshHeader 50000)).putAll 16384 [0] }

theorem test_hyps_BootSetIsAccepted :
    (∀ code q, (stored up 48).ready code q) ∧ (rq [255, 1]).params = [255, 1] ∧ (255 : Byte).toNat = 255 ∧
      8 ≤ (8 : Byte).toNat ∧ (254 : Byte).toNat < 255 ∧ 1 < (2 : Byte).toNat ∧ 48 ≤ (stored up 48).store.dir.free ∧
      (stored up 48).store.dir.slots.get 2 ≠ none ∧ (stored up 48).store.dir.slots.get 7 = none ∧
      (stored up 48).store.dir.bank = some .a ∧ (∀ code q, (stored up 47).ready code q) ∧
      (stored up 47).store.dir.free < 48 ∧ (stored up 47).media.takenCount Bank.a.other < 50000 ∧
      (∀ code q, (worn (stored up 47)).ready code q) ∧ (worn (stored up 47)).store.dir.free < 48 ∧
      (worn (stored up 47)).media.bankState Bank.a.other ≠ some .fresh ∧
      50000 ≤ (worn (stored up 47)).media.takenCount Bank.a.other :=
  ⟨calm_ready (by decide +kernel), rfl, rfl, by decide, by decide, by decide, by decide, by decide +kernel,
    by decide +kernel, rfl, calm_ready (by decide +kernel), by decide, by decide +kernel, calm_ready (by decide +kernel),
    by decide +kernel, by decide +kernel, by decide +kernel⟩

/-- Media that hold some bytes from an address on. -/
def holding (addr : Nat) (bytes : List Byte) : Media :=
  (bytes.mapIdx fun k b => (addr + k, b)).filter fun c => decide (c.2 ≠ erased)

/-- The empty plan with its start edge set. -/
def small : Plan := { Plan.empty with cycle := { Plan.empty.cycle with startEdge := .rise } }

/-- Bank A with the small plan's body in a record at 32, for slot 2. -/
def recorded : Media := holding 32 (recordHeader 1 2 3 [0x41] small.bytes) ++ holding 64 small.bytes

/-- A store with that record. -/
def withRecord : State :=
  { up with
    media := recorded
    store :=
      { up.store with
        status := .ready
        dir :=
          { up.store.dir with
            bank := some .a
            slots := up.store.dir.slots.set 2 (some ⟨3, [0x41], 64, 32⟩) } } }

theorem test_recorded_body : recorded.slice .a 64 64 = small.bytes := by decide +kernel

theorem test_recorded_crc : (crc32 (recorded.slice .a 64 64)).toNat = fromBe (recorded.slice .a 53 4) := by
  have h : recorded.slice .a 53 4 = be4 (crc32 small.bytes).toNat := by decide +kernel
  rw [test_recorded_body, h]
  decide +kernel

theorem test_recorded_plan : Plan.ofBytes (recorded.slice .a 64 64) = some small := by
  rw [test_recorded_body]
  decide +kernel

theorem test_hyps_ProfileLoadReplacesTheStagedPlan :
    (∀ code q, withRecord.ready code q) ∧ withRecord.store.status ≠ .busy ∧ withRecord.plans.commitPending = false ∧
      (crc32 (recorded.slice .a 64 64)).toNat = fromBe (recorded.slice .a 53 4) ∧
      Plan.ofBytes (recorded.slice .a 64 64) = some small ∧
      withRecord.store.dir.slots.get 3 = none ∧ Plan.ofBytes [] = none :=
  ⟨calm_ready (by decide +kernel), by decide +kernel, rfl, test_recorded_crc, test_recorded_plan, by decide +kernel,
    by decide⟩

/-- A store whose last step marks a record DEAD. -/
def marking7F : State :=
  { up with
    store :=
      { up.store with
        status := .busy
        job := some ⟨.op (.delete 2), deleteSteps .a 2 ⟨3, [0x41], 64, 16383⟩, false, false, false, 0⟩ } }

theorem test_hyps_StoreReportsChangeNothing :
    (∀ code q, (stored up 96).ready code q) ∧ (rq []).params = [] ∧ (stored up 96).store.job = none ∧
      (∀ code q, marking7F.ready code q) ∧
      marking7F.store.job =
        some ⟨.op (.delete 2), deleteSteps .a 2 ⟨3, [0x41], 64, 16383⟩, false, false, false, 0⟩ ∧
      deleteSteps .a 2 ⟨3, [0x41], 64, 16383⟩ =
        ⟨.program .a 16383 [0x7F#8], false, [.madeDead 96, .slotEmptied 2]⟩ :: [] :=
  ⟨calm_ready (by decide +kernel), rfl, rfl, calm_ready (by decide +kernel), rfl, rfl⟩

/-! ## Sessions -/

theorem test_hyps_GoodbyeAndRestartAwaitTheirReply :
    (∀ code q, up.ready code q) ∧ up.store.status ≠ .busy ∧ calm (withStatus up .busy) = true :=
  ⟨up_ready, by decide, by decide⟩

/-- With a frame waiting. -/
def offered (body : List Byte) : State := { up with link := { up.link with waiting := some ⟨body, 77⟩ } }

theorem test_hyps_admits :
    up.admits 36 (rq []) ∧ (offered [1, 5, 36]).admits 36 ⟨5, 77, []⟩ ∧ (offered [1, 5, 36]).link.waiting ≠ none ∧
      (offered [1, 5, 34, 1, 0, 10, 0, 100, 1]).admits 34 ⟨5, 77, [1, 0, 10, 0, 100, 1]⟩ ∧
      (offered [1, 5, 38, 3]).admits 38 ⟨5, 77, [3]⟩ ∧ (offered [1, 5, 38, 3]).live = true ∧
      (offered [1, 5, 38, 3]).canTake = true :=
  ⟨.inl rfl, .inr rfl, by decide, .inr rfl, .inr rfl, by decide, by decide⟩

theorem test_hyps_HelloOpensASession :
    up.live = true ∧ up.canTake = true ∧ up.link.waiting = none ∧
      (rq [1, 0, 10, 0, 100, 1]).params = be1 1 ++ be2 10 ++ be2 100 ++ be1 1 ∧
      (rq [1, 0x13, 0x88, 0xEA, 0x60, 0]).params = be1 1 ++ be2 5000 ++ be2 60000 ++ be1 0 ∧
      ¬ (10 ≤ 9 ∧ 9 ≤ 5000) ∧ ¬ (100 ≤ 60001 ∧ 60001 ≤ 60000) := by decide

theorem test_hyps_StatusShowsTheState :
    (inMode up .halted 0).live = true ∧ (inMode up .halted 0).canTake = true ∧ (inMode up .halted 0).link.waiting = none := by
  decide

theorem test_hyps_CountersReadAndClearAGroup :
    (∀ code q, up.ready code q) ∧ (rq [3]).params = [3] ∧ 3 < (4 : Byte).toNat := ⟨up_ready, rfl, by decide⟩

theorem test_hyps_RequestsAreGated :
    requestOf 38 (rq []) = some (.countersClear (rq [])) ∧ up.live = true ∧ up.link.waiting = none ∧ up.canTake = true ∧
      ({ up with startup := { up.startup with stage := .booting } } : State).startup.stage ≠ .complete ∧
      ({ up with session := { up.session with isOpen := false } } : State).session.isOpen = false ∧
      ({ up with session := { up.session with intake := .awaitingGoodbye } } : State).canTake = false ∧
      (⟨requestBody 38 (rq []), 0⟩ : Frame) ≠ ⟨requestBody 37 (rq []), 0⟩ := by decide

theorem test_hyps_RequestsAreGated_lengths :
    (∀ code q, up.ready code q) ∧ ¬ paramsFit 38 [] ∧ ¬ paramsFit 38 [3, 0] ∧ ¬ paramsFit 1 [0] ∧ ¬ paramsFit 36 [0] ∧
      ¬ paramsFit 34 [1, 0, 10, 0, 100] ∧ ¬ paramsFit 4 [2, 0, 0] ∧ ¬ paramsFit 4 [0x80] ∧
      ¬ paramsFit 26 [0, 2, 0x41] := by
  refine ⟨up_ready, ?_⟩
  simp [paramsFit, presenceFits, presentBytes, List.range_succ]
  decide

theorem test_hyps_RequestsAreGated_waiting :
    (offered [4, 0, 1]).live = true ∧ (offered [4, 0, 1]).link.waiting = some ⟨[4, 0, 1], 77⟩ ∧
      (offered [1, 5, 39]).canTake = true ∧ (offered [1, 5, 39]).link.waiting = some ⟨0x01#8 :: 5#8 :: 39#8 :: [], 77⟩ ∧
      requestOf (38 : Byte).toNat ⟨5, 77, [3]⟩ = some (.countersClear ⟨5, 77, [3]⟩) ∧ 38 < (39 : Byte).toNat ∧
      (0 : Byte).toNat = 0 ∧ (offered [1, 5, 0]).cachedReply 0 ⟨5, 77, []⟩ = none := by decide

/-- With a reply in the cache. -/
def cached : State :=
  { up with session := { up.session with cache := [⟨5, 0, replyTo 38 (rq []) .ok []⟩] } }

theorem test_hyps_RepliesAreCachedAndResent :
    requestOf 38 (rq []) = some (.countersClear (rq [])) ∧ (rq []).tag ≠ 0 ∧ cached.live = true ∧ cached.canTake = true ∧
      (cached.session.cache.find? fun e => decide (e.tag = (rq []).tag ∧ e.crc = (rq []).crc)) =
        some ⟨(rq []).tag, (rq []).crc, replyTo 38 (rq []) .ok []⟩ ∧ (∀ code q, up.ready code q) :=
  ⟨rfl, by decide, by decide, by decide, by decide, up_ready⟩

theorem test_hyps_RepliesAreCachedAndResent_apart :
    requestOf 36 (rq []) = some (.status (rq [])) ∧ requestOf 38 ⟨0, 0, [3]⟩ = some (.countersClear ⟨0, 0, [3]⟩) ∧
      cached.live = true ∧ cached.canTake = true ∧ cached.link.waiting = none ∧ cached.session.cache ≠ [] ∧
      ({ cached with session := { cached.session with isOpen := false } } : State).session.isOpen = false ∧
      (rq [1, 0, 10, 0, 0, 1]).params = be1 1 ++ be2 10 ++ be2 0 ++ be1 1 ∧
      (rq [1, 0, 9, 0, 0, 0]).params = be1 1 ++ be2 9 ++ be2 0 ++ be1 0 := by decide

/-! ## The link -/

/-- A notice that has been sent, its timer running. -/
def told : Notice := ⟨65535, .report (.committed none), 1, 0, true, true, some ⟨250000, 250⟩⟩

/-- With one notice. -/
def telling : State := { up with notices := { up.notices with entries := [told] } }

/-- An ordinary entry with a number, unsent. -/
def entryOf (number : Nat) : Notice := ⟨number, .report (.committed none), 1, 0, false, false, none⟩

/-- A merging entry with a number, whose number has been shown or not. -/
def starvedOf (number : Nat) (shown : Bool) : Notice :=
  ⟨number, .merging .starved 3 4, 65535, number, shown, shown, none⟩

/-- A NOTICE_LOSS entry with a number. -/
def lossOf (number : Nat) : Notice := ⟨number, .loss 9, 2, number, false, false, none⟩

theorem test_hyps_NoticesAreRaised :
    (⟨[entryOf 1, starvedOf 2 true, entryOf 65535], 65535, 250⟩ : Notices).ok ∧
      (⟨[entryOf 1, starvedOf 2 false], 3, 250⟩ : Notices).ok ∧
      (⟨(List.range 16).map (fun k => entryOf (k + 1)), 17, 250⟩ : Notices).ok ∧
      (⟨(List.range 16).map (fun k => entryOf (k + 1)) ++ [lossOf 65535], 65535, 250⟩ : Notices).ok ∧
      ¬ 16 ≤ (((List.range 15).map fun k => entryOf (k + 1)).filter fun n => !n.isLoss).length ∧
      16 ≤ (((List.range 16).map fun k => entryOf (k + 1)).filter fun n => !n.isLoss).length := by
  unfold Notices.ok
  decide +kernel

theorem test_hyps_NoticesAreRaisedAndAcknowledged :
    telling.live = true ∧ telling.link.waiting = none ∧ (∃ n ∈ telling.notices.entries, n.number = (65535 : W16).toNat) ∧
      (∀ n ∈ telling.notices.entries, n.number ≠ (0 : W16).toNat) ∧
      (offered [4, 255, 255]).link.waiting = some ⟨0x04#8 :: be2 (65535 : W16).toNat, 77⟩ ∧
      (offered [1, 5, 36]).link.waiting = some ⟨[1, 5, 36], 77⟩ ∧
      ([1, 5, 36] : List Byte) ≠ 0x04#8 :: be2 (65535 : W16).toNat := by decide

theorem test_hyps_FrameReceivedIsCheckedAndOffered :
    up.live = true ∧ up.link.asm = ⟨.searching, [], none, none⟩ ∧ up.link.waiting = none ∧
      0xD3FD#16 = crc16 (be1 3 ++ [4, 0, 1]) ∧ 0#16 ≠ crc16 (be1 3 ++ [4, 0, 1]) ∧
      (∀ b ∈ be1 3 ++ ([4, 0, 1] : List Byte) ++ be2 0, b ≠ 0xD5#8) ∧
      ({ up with link := { up.link with waiting := some ⟨[4, 0, 2], 0⟩ } } : State).link.waiting ≠ none ∧
      ¬ ((([9] : List Byte).head? = some 0x01#8 ∧ 3 ≤ 1) ∨ (([9] : List Byte).head? = some 0x04#8 ∧ 1 = 3)) ∧
      (let bytes := be1 3 ++ ([4, 0, 1] : List Byte) ++ be2 (0xD3FD#16).toNat;
        (up.withAsm ⟨.check, bytes, some 3, some 3999⟩).link.asm =
          ⟨.check, bytes, some ([4, 0, 1] : List Byte).length, some 3999⟩) := by
  decide +kernel

/-- R137, R138: the ACK for notice 1 inside a frame whose CRC is wrong is found when its bytes are examined again, and a
frame begun behind it stays being assembled. -/
theorem test_frame_in_a_discarded_frame :
    after (.frameReceived [0x0A, 0xD5, 0x03, 0x04, 0x00, 0x01, 0xD3, 0xFD, 0xD5, 0x02, 0x01, 0, 0]) up (fun t =>
      (t.link.waiting, t.link.counters.crc, t.link.counters.framesGood, t.link.asm)) =
        (some ⟨[4, 0, 1], 0xD3FD⟩, 1, 1, ⟨.check, [2, 1, 0, 0], some 2, some 0⟩) := by decide +kernel

theorem test_hyps_CharactersFeedTheAssembler :
    up.link.asm.state = .searching ∧ (1 : Byte).toNat = 1 ∧ (250 : Byte).toNat ≤ 250 ∧ 250 < (251 : Byte).toNat ∧
      (up.withAsm ⟨.length, [], none, some 0⟩).live = true ∧
      (up.withAsm ⟨.body, [1], some 1, some 0⟩).link.asm.held.length = 1 ∧
      (up.withAsm ⟨.check, [1, 9, 0], some 1, some 0⟩).link.asm.held.length < 1 + 3 ∧
      (up.withAsm ⟨.check, [1, 9], some 1, some 4000⟩).link.asm.gap = some 4000 ∧
      (up.withAsm ⟨.check, [1, 9, 0, 0], some 1, some 3⟩).link.asm.complete = true := by decide

/-- R137: a frame that is silent for 4 ms is a gap, and so is the frame that its held bytes end inside. -/
theorem test_gap_in_a_discarded_frame :
    after .gapTimerExpiry (up.withAsm ⟨.body, [9, 0xD5, 2, 1], some 9, some 4000⟩) (fun t =>
      (t.link.counters.gap, t.link.asm)) = (2, ⟨.searching, [], none, none⟩) := by decide +kernel

theorem test_hyps_ArbiterServesRepliesFirst :
    up.link.tx = .idle ∧ up.link.outbox = [] ∧ up.session.isOpen = true ∧
      ({ telling with notices := telling.notices.reopened 250 } : State).notices.entries =
        [] ++ { told with sent := false } :: [] ∧ (∀ m ∈ telling.notices.entries, m.sent = true) ∧
      (starvedOf 2 true).content = .merging .starved 3 4 ∧ (lossOf 1).content = .loss 9 ∧
      told.content = .report (.committed none) := by decide

theorem test_hyps_TransmitFrameEndTellsTheOwner :
    ({ up with link := { up.link with tx := .sending (.reply 33 .ok) [1] } } : State).live = true ∧
      ({ up with session := { up.session with intake := .awaitingRestart } } : State).session.intake = .awaitingRestart ∧
      up.store.job = none := by decide

theorem test_hyps_LapseAndResendTimersExpire :
    telling.live = true ∧ told ∈ telling.notices.entries ∧ told.number = (65535 : W16).toNat ∧
      told.timer = some ⟨250000, 250⟩ ∧ 250 * 1000 ≤ 250000 ∧
      (let s : State :=
          { up with
            session := { up.session with lapseTime := 100, lapseTimer := some 100000, lapsePolicy := .halt }
            seq := { up.seq with mode := .armed } };
        s.session.isOpen = true ∧ s.session.lapseTime ≠ 0 ∧ s.session.lapseTime * 1000 ≤ 100000 ∧
          s.seq.mode.running = true) := by decide

/-! ## Lines and the cycle -/

/-- With IN0's rise due. -/
def rising (s : State) : State :=
  { s with filters := { s.filters with inputs := s.filters.inputs.set 0 ⟨.high, .low, some 15, 15, some 14, false⟩ } }

/-- With IN0's fall due. -/
def falling (s : State) : State :=
  { s with filters := { s.filters with inputs := s.filters.inputs.set 0 ⟨.low, .high, some 15, 15, some 14, false⟩ } }

/-- With every edge of IN0 captured. -/
def selecting (s : State) : State :=
  { s with
    plans :=
      { s.plans with
        active := { s.plans.active with inputs := s.plans.active.inputs.set 0 ⟨15, .both⟩ } } }

theorem test_hyps_InputEdgeFollowsTheDecisionTable :
    (rising (triggered (inMode loaded .cycling 500))).live = true ∧
      (rising (triggered (inMode loaded .cycling 500))).inputDue 0 .rise = true ∧
      (rising (triggered (inMode loaded .cycling 499))).inputDue 0 .rise = true ∧
      (rising (triggered (inMode loaded .waiting 20000))).inputDue 0 .rise = true ∧
      (rising (triggered loaded)).inputDue 0 .rise = true ∧ (triggered loaded).block.source = .triggered ∧
      (triggered loaded).block.startInput = 0 ∧ (triggered loaded).block.startEdge = .rise ∧
      (triggered loaded).block.guard = 500 ∧ loaded.seq.remaining ≠ some 0 ∧
      (rising (inMode (triggered loaded) .armed 0)).inputDue 0 .rise = true ∧
      (falling (triggered (inMode loaded .cycling 500))).inputDue 0 .fall = true ∧
      (let s := rising (triggered (inMode loaded .cycling 500));
        ({ s with seq := { s.seq with finish := true } } : State).inputDue 0 .rise = true) := by
  decide +kernel

theorem test_hyps_reset_notices : State.reset.notices.ok := by
  unfold Notices.ok
  decide

theorem test_hyps_CapturedEdgeBecomesARecord_starts :
    (selecting loaded).plans.active.captures 0 .rise ∧ ¬ loaded.plans.active.captures 0 .rise ∧
      (rising (selecting (triggered (inMode loaded .cycling 499)))).inputDue 0 .rise = true ∧
      (rising (selecting (triggered (inMode loaded .cycling 500)))).inputDue 0 .rise = true ∧
      (rising (selecting (triggered (inMode loaded .armed 0)))).inputDue 0 .rise = true ∧
      (falling (selecting (triggered (inMode loaded .waiting 20000)))).inputDue 0 .fall = true ∧
      (triggered (inMode loaded .cycling 500)).block.guard ≤ (triggered (inMode loaded .cycling 500)).seq.phase ∧
      (triggered (inMode loaded .cycling 499)).seq.phase < (triggered (inMode loaded .cycling 499)).block.guard := by
  unfold Plan.captures
  decide +kernel

theorem test_hyps_CapturedEdgeBecomesARecord :
    (rising (capturing (inMode loaded .cycling 7) 127)).inputDue 0 .rise = true ∧
      (capturing loaded 127).captures.records.length < 128 ∧ 128 ≤ (capturing loaded 128).captures.records.length ∧
      loaded.block.source = .internal ∧ (inMode loaded .cycling 7).seq.mode.running = true ∧
      loaded.seq.mode.running = false ∧ (capturing loaded 31).captures.armed = true ∧
      (capturing loaded 31).captures.records.length + 1 = (capturing loaded 31).captures.watermark := by decide +kernel

theorem test_hyps_FiltersAgeACandidate :
    up.live = true ∧ ({ up.filters with settle := 1 } : Filters).settle = 1 ∧
      ((rising up).filters.inputs.get 0).raw ≠ ((rising up).filters.inputs.get 0).level ∧
      ((rising up).filters.inputs.get 0).cand = some 15 ∧
      (((rising up).onInput 0 Filter.settle).filters.inputs.get 0).taken = true ∧
      (((rising up).onInput 0 Filter.settle).filters.inputs.get 0).cand = none ∧ (rising up).cycleEndDue = false ∧ (rising up).inputDue 0 .rise = true ∧
      (let s : State := { up with filters := { up.filters with stop := ⟨.low, .high, some 16, 16, some 15, false⟩ } };
        s.filters.stop.raw ≠ s.filters.stop.level ∧ s.stopDue .fall = true) ∧
      (up.filters.inputs.get 1).raw = (up.filters.inputs.get 1).level := by decide +kernel

theorem test_hyps_StopLineStopsTheOutputs :
    (let s : State := { loaded with filters := { loaded.filters with stop := ⟨.low, .high, some 16, 16, some 15, false⟩ } };
      s.live = true ∧ s.filters.stop.cand = some 16 ∧ s.filters.stop.depth ≤ 16 ∧ s.filters.stop.level = .high ∧
        s.filters.stop.raw = .low) ∧
      (⟨.high, .low, some 16, 16, some 15, false⟩ : Filter).level = .low := by decide +kernel

/-- In CYCLING at phase 5,000 with entry 20's start the next edge. -/
def atGate : State :=
  { loaded with
    seq := { loaded.seq with mode := .cycling, phase := 5000, cycle := 3 }
    timeline := { loaded.timeline with next := 5 } }

theorem test_hyps_TimelineEdgeIsDecided :
    atGate.live = true ∧ atGate.edgeDue = some ⟨5000, 2, .toActive, .pulseStart, 20, 0, none, some ⟨1, .high⟩⟩ ∧
      (atGate.filters.inputs.get 1).level ≠ .high ∧ (atGate.channels.get 2).hold = .free ∧
      (let s : State := { atGate with seq := { atGate.seq with phase := 0 }, timeline := { atGate.timeline with next := 0 } };
        s.edgeDue = some ⟨0, 3, .flip, .single, 5, 0, some ⟨2, 0⟩, none⟩ ∧ s.seq.cycle.toNat % 2 ≠ 0) := by
  decide +kernel

theorem test_hyps_EndOfCycleEndsOrGoesOn_swap :
    swapping.live = true ∧ swapping.seq.mode = .cycling ∧ swapping.seq.endDue = true ∧
      swapping.monitor.haltMisses swapping.block.length = [] ∧ swapping.plans.commitPending = true ∧
      (swapping.plans.stagedTimeline.takeWhile fun e => decide (e.phase = 0)).length = 1 := by decide +kernel

theorem test_hyps_EndOfCycleEndsOrGoesOn :
    (let s : State := { loaded with seq := { loaded.seq with mode := .cycling, phase := 19999, endDue := true } };
      s.live = true ∧ s.seq.mode = .cycling ∧ s.seq.endDue = true ∧ s.monitor.haltMisses s.block.length = [] ∧
        s.seq.finish = false ∧ s.seq.remaining ≠ some 0 ∧ s.block.source = .internal) ∧
      (⟨[⟨⟨1, 0, .rise, 0, 20000, .halt⟩, .opened, none⟩], true, up.monitor.tallies⟩ : Monitor).haltMisses 20000 =
        [⟨1, 0, .rise, 0, 20000, .halt⟩] := by decide +kernel

/-- In CYCLING at phase 40 with a PENDING window that opens there and an OPEN one that closes there. -/
def windowed : State :=
  { inMode loaded .cycling 40 with
    monitor :=
      { up.monitor with
        inProgress := true
        table :=
          [⟨⟨1, 0, .rise, 40, 50, .notify⟩, .pending, none⟩, ⟨⟨15, 0, .rise, 0, 40, .halt⟩, .opened, none⟩] } }

theorem test_hyps_WindowsOpenAndClose :
    windowed.live = true ∧ windowed.seq.mode = .cycling ∧ windowed.monitor.inProgress = true ∧
      (∃ w ∈ windowed.monitor.table, w.window.id = 1 ∧ w.state = .pending ∧ w.window.openAt = windowed.seq.phase) ∧
      (∃ w ∈ windowed.monitor.table, w.state = .opened ∧ w.window.closeAt = windowed.seq.phase) ∧
      windowed.notices = State.reset.notices ∧
      windowed.monitor.haltMisses windowed.seq.phase = [⟨15, 0, .rise, 0, 40, .halt⟩] ∧
      (windowed.monitor.table.map fun w => w.window.id).Nodup ∧ up.monitor.inProgress = false := by decide +kernel

theorem test_hyps_WaitAndManualTimersExpire :
    (let s : State := triggered { loaded with seq := { loaded.seq with mode := .waiting, wait := some 1000 } };
      s.live = true ∧ s.seq.wait = some 1000 ∧ s.block.starveLimit * 1000 ≤ 1000 ∧ s.block.starvePolicy = .notify) ∧
      (({ up with channels := up.channels.modify 7 fun c => { c with manual := some 0 } } : State).channels.get 7).manual =
        some 0 := by decide +kernel

/-! ## The media, start-up, the whole machine -/

theorem test_hyps_MediaStepsEndAndAreVerified :
    marking7F.live = true ∧ marking7F.mediaOk ∧
      (marking7F.store.job.map fun j => j.steps.map MediaStep.act) = some [.program .a 16383 [0x7F]] ∧
      16383 + ([0x7F] : List Byte).length ≤ 16384 ∧
      (refreshSteps .a 1 false []).map MediaStep.act = [.erase .a, .program .a 0 (freshHeader 1)] := by
  unfold State.mediaOk
  decide +kernel

/-- A store that is erasing bank B, the last step of a scan. -/
def erasing : State :=
  { up with
    store :=
      { up.store with
        job := some ⟨.scan Directory.blank 0 false, [⟨.erase .b, false, [.repaired]⟩], false, false, false, 0⟩ } }

theorem test_hyps_VerifyFailureEndsTheWork :
    marking7F.live = true ∧ marking7F.mediaOk ∧
      (0xFF#8 : Byte) = marking7F.media.read 16383 &&& 0xFF#8 ∧
      (0xFF#8 : Byte) ≠ marking7F.media.read 16383 &&& ([0x7F] : List Byte).getD (16383 - (Bank.a.base + 16383)) 0xFF#8 ∧
      16384 < 16384 + ([0x7F] : List Byte).length ∧ erasing.live = true ∧ erasing.mediaOk ∧
      (erasing.store.job.map fun j => j.steps.map MediaStep.act) = some [.erase .b] ∧ Bank.b.base ≤ 32767 ∧
      32767 < Bank.b.base + 16384 ∧ (0#8 : Byte) ≠ 0xFF#8 := by
  unfold State.mediaOk
  decide +kernel

theorem test_hyps_ResetEndStartsTheScan :
    State.reset.startup.powered = true ∧ State.reset.startup.stage = .inReset := ⟨rfl, rfl⟩

/-- A bank's header with a state byte, a sequence and an erase count. -/
def headed (state : Byte) (seq count : Nat) : List Byte :=
  [state] ++ be4 seq ++ be4 count ++ be2 (crc16 (be4 count)).toNat

theorem test_hyps_ResetEndStartsTheScan_banks :
    Media.bankState [] .a = some .blank ∧ Media.bankState [(0, 0)] .a = none ∧
      (holding 0 (headed 0xFE 0xFFFFFFFF 7)).bankState .a = some .fresh ∧
      (holding 0 (headed 0xFC 1 7)).bankState .a = some .opening ∧
      (holding 0 (headed 0xF8 1 7)).bankState .a = some .current ∧
      (holding 0 (headed 0xF0 1 7)).bankState .a = some .retired ∧
      (holding 0 (headed 0xF8 1 7)).takenCount .b = 7 ∧
      Media.takenCount [] .a < 50000 ∧ (holding 16384 (headed 0xFE 0 50000)).takenCount .a = 50000 := by decide +kernel

theorem test_hyps_ResetEndStartsTheScan_used :
    (let m := holding 0 (headed 0xF8 1 7) ++ holding 16384 (headed 0xF8 1 8);
      m.bankState .a = some .current ∧ m.bankState .b = some .current ∧
        fromBe (m.slice .b 1 4) = fromBe (m.slice .a 1 4)) ∧
      (let m := holding 0 (headed 0xF8 1 7) ++ holding 16384 (headed 0xF8 2 50000);
        m.bankState .b = some .current ∧ fromBe (m.slice .a 1 4) < fromBe (m.slice .b 1 4) ∧
          m.takenCount Bank.b.other < 50000 ∧ 50000 ≤ m.takenCount Bank.a.other) ∧
      (let m := holding 0 (headed 0xF8 1 7) ++ holding 16384 (headed 0xFE 0xFFFFFFFF 7);
        m.bankState .b = some .fresh) := by decide +kernel

/-- At the end of a scan that found that plan selected for boot. -/
def scanned : State :=
  { withRecord with
    startup := { withRecord.startup with stage := .scanning }
    store :=
      { withRecord.store with
        status := .starting
        job :=
          some
            ⟨.scan { withRecord.store.dir with boot := some ⟨4, some 2, true, 999⟩ } 0 false, [], false, false, false,
              0⟩ } }

theorem test_hyps_ScanEndBootsTheSelectedProfile :
    scanned.live = true ∧ scanned.startup.stage = .scanning ∧ scanned.stopSettled = false ∧
      scanned.store.job =
        some
          ⟨.scan { withRecord.store.dir with boot := some ⟨4, some 2, true, 999⟩ } 0 false, [], false, false, false, 0⟩ ∧
      withRecord.store.dir.slots.get 2 = some ⟨3, [0x41], 64, 32⟩ ∧
      (crc32 (recorded.slice .a 64 64)).toNat = fromBe (recorded.slice .a 53 4) ∧
      Plan.ofBytes (recorded.slice .a 64 64) = some small ∧ small.failure = none :=
  ⟨by decide +kernel, by decide +kernel, by decide +kernel, rfl, by decide +kernel, test_recorded_crc, test_recorded_plan,
    by decide +kernel⟩

theorem test_hyps_ScanEndBootsTheSelectedProfile_others :
    withRecord.store.dir.boot = none ∧ withRecord.store.dir.slots.get 7 = none ∧ Plan.ofBytes [] = none ∧
      (workedWith 0 100 2000 .used).failure ≠ none ∧
      ({ scanned with filters := { scanned.filters with settle := 17 } } : State).stopSettled = true := by
  decide +kernel

/-- Stages 3 to 5 done, the filters settled. -/
def booting : State :=
  { loaded with
    startup := { loaded.startup with stage := .booting, autoRun := true, bootResult := .loaded }
    filters := { loaded.filters with settle := 17 } }

theorem test_hyps_AutoRunStageFollowsItsTests :
    booting.pending = [] ∧ booting.live = true ∧ booting.dueAll = [.runStage] ∧ booting.autoDecision = .started := by
  decide +kernel

theorem test_hyps_ResetsKeepTheMediaAlone :
    withRecord.store.job = none ∧ withRecord.startup.powered = true ∧
      ({ up with startup := { up.startup with powered := false } } : State).startup.powered = false ∧
      marking7F.mediaOk ∧
      (marking7F.store.job.map fun j => j.steps.map MediaStep.act) = some [.program .a 16383 [0x7F]] ∧
      erasing.mediaOk ∧ (erasing.store.job.map fun j => j.steps.map MediaStep.act) = some [.erase .b] := by
  unfold State.mediaOk
  decide +kernel

theorem test_hyps_OnlyTheirCommandsDoIt :
    after (.run (rq [])) loaded (fun t => t.seq.cycle) ≠ loaded.seq.cycle ∧
      after (.programStepEnd []) marking7F (fun t => t.media) ≠ marking7F.media ∧
      after (.hello (rq [1, 0, 10, 0, 0, 0])) { up with session := { up.session with isOpen := false } }
          (fun t => t.session.isOpen) = true ∧
      after (.resetLine []) (inMode loaded .cycling 7) (fun t => t.seq.mode) = .idle := by decide +kernel

/-- With no command waiting, stages 6 and 7 start a cycle, and a waiting HELLO opens a session. -/
theorem test_hyps_OnlyTheirCommandsDoIt_idle :
    (let closed := offered [1, 5, 34, 1, 0, 10, 0, 0, 0]
      let s : State := { closed with session := { closed.session with isOpen := false } }
      booting.pending = [] ∧ booting.dueAll = [.runStage] ∧ booting.seq.cycle = 0 ∧
        (match step booting with | .next t => t.seq.cycle | _ => 0) = 1 ∧
        s.pending = [] ∧ s.dueAll = [.takeFrame ⟨[1, 5, 34, 1, 0, 10, 0, 0, 0], 77⟩] ∧
        (match step s with | .next t => t.session.isOpen | _ => false) = true) := by decide +kernel

/-- With no command waiting and no due happening the part takes a step, from a state in which every invariant holds. -/
theorem test_hyps_EveryStepKeeps :
    State.reset.mediaOk ∧ State.reset.driveOk ∧ State.reset.stopSafe ∧ State.reset.captures.ok ∧ State.reset.repliesOk ∧
      step State.reset = .next State.reset := by
  refine ⟨by unfold State.mediaOk; decide, by unfold State.driveOk; decide, by unfold State.stopSafe; decide,
    by unfold Captures.ok; decide, by unfold State.repliesOk; decide, rfl⟩

theorem test_hyps_EveryStepKeeps_sequencer_plans_store :
    State.reset.seqOk ∧ State.reset.plansOk ∧ State.reset.rangesOk ∧ State.reset.storeOk := by
  refine ⟨⟨by decide, by decide, by decide, rfl, by decide, by decide⟩, ?_, ?_, ?_⟩
  · unfold State.plansOk
    decide
  · refine ⟨?_, ?_⟩ <;>
      refine ⟨by decide, by decide, by decide, by decide, by decide, by decide, by decide, ?_, ?_⟩ <;>
      simp [State.reset, Plan.empty]
  · simp [State.storeOk, State.reset]

theorem test_hyps_PlanSerializesAndReadsBack :
    worked.inRange ∧ worked.cycle.startEdge ≠ .none ∧ Plan.ofBytes worked.bytes = some worked ∧
      (let byte (body : List Byte) (k : Nat) : Nat := (body.getD k 0#8).toNat;
        byte (worked.bytes.set 0 2) 0 ≠ 1 ∧ byte (worked.bytes.set 63 0) 63 ≠ 255 ∧ 64 < byte (worked.bytes.set 25 65) 25 ∧
          8 < byte (worked.bytes.set 26 9) 26 ∧ 1 < byte (worked.bytes.set 9 2) 9) :=
  ⟨worked_inRange, by decide, test_plan_body.1, by decide +kernel⟩

end Sys2Proof.Tests
end

section
/-! The cycle and run control (chapters 1 to 5): what holds over every step, and what each command and happening of it does. -/

-- The text is long enough that elaborating its proofs in threads of their own would exceed the memory limit.
set_option Elab.async false

/-! The blocks' shared operations read and write neither the captures, the media, the store, the start-up state, the link,
the session nor the queue: what they do is the same whatever stands there. -/

namespace Sys2Proof.Machine

/-- A state with the parts of another that the cycle's operations neither read nor change. -/
def State.beside (s u : State) : State :=
  { s with
    captures := u.captures, media := u.media, store := u.store, startup := u.startup, link := u.link
    session := u.session, choices := u.choices, pending := u.pending }

theorem State.takeEdge_beside (s u : State) (e : TEdge) : (s.beside u).takeEdge e = (s.takeEdge e).beside u := by
  have same : (s.beside u).verdict e = s.verdict e := rfl
  unfold State.takeEdge
  rw [same]
  dsimp only
  split <;> rfl

theorem State.takeEdges_beside (l : List TEdge) (s u : State) :
    l.foldl State.takeEdge (s.beside u) = (l.foldl State.takeEdge s).beside u := by
  induction l generalizing s with
  | nil => rfl
  | cons e l ih => rw [List.foldl_cons, State.takeEdge_beside, ih, List.foldl_cons]

theorem State.swapPending_beside (s u : State) (cycle : Option W32) :
    (s.beside u).swapPending cycle = (s.swapPending cycle).beside u := by
  have same : (s.beside u).plans = s.plans := rfl
  unfold State.swapPending
  rw [same]
  split <;> rfl

theorem State.cycleStart_beside (s u : State) : (s.beside u).cycleStart = s.cycleStart.beside u := by
  have stages : (s.beside u).startStages = s.startStages.beside u := by
    have := State.swapPending_beside { s with seq := s.seq.begin } u (some (s.seq.cycle + 1))
    unfold State.startStages
    exact congrArg
      (fun t : State => { t with timeline := t.timeline.restarted, monitor := t.monitor.prepare }) this
  have edges : (s.startStages.beside u).takeEdgesHere = s.startStages.takeEdgesHere.beside u :=
    State.takeEdges_beside _ _ _
  rw [State.cycleStart_eq, State.cycleStart_eq, stages, edges]
  rfl

theorem State.startRun_beside (s u : State) (count : Nat) :
    (s.beside u).startRun count = (s.startRun count).beside u := by
  have cycle := State.cycleStart_beside { s with seq := s.seq.ranFor count } u
  have same : (s.beside u).block = s.block := rfl
  unfold State.startRun
  rw [same]
  cases s.block.source with
  | internal => exact cycle
  | triggered => rfl

/-- A request's owner acts on the taken request's state, which is the state but for the link and the reply cache. -/
theorem State.taken_eq_beside (s : State) (code : Nat) (q : Req) : s.taken code q = s.beside (s.taken code q) := by
  simp only [State.beside, State.taken, State.uncache, State.cleared]
  split <;> rfl

end Sys2Proof.Machine

/-! What a happening may do to a channel: keep the agreement of drive, hold and use (R61, R67), and under STOP leave an
INACTIVE channel INACTIVE (R62, R71, R72). -/

namespace Sys2Proof.Machine

/-- A channel's drive agrees with its hold and use, and a manual pulse runs on a HELD one alone (R61, R67). -/
def Channel.driveOk (c : Channel) : Prop :=
  (c.drive = .driven ↔ c.hold = .held ∨ c.use = .used) ∧ (c.manual ≠ none → c.hold = .held)

/-- A channel is INACTIVE with no manual pulse, as R71 leaves it. -/
def Channel.still (c : Channel) : Prop := c.level = .inactive ∧ c.manual = none

theorem State.stopSafe_iff (s : State) :
    s.stopSafe ↔ (s.stopAsserted = true → s.seq.mode.running = false ∧ ∀ i, (s.channels.get i).still) := Iff.rfl

/-- A channel goes over into another, with the STOP line asserted or not, safely. -/
def Channel.safeTo (stop : Bool) (c c' : Channel) : Prop :=
  (c.driveOk → c'.driveOk) ∧ (stop = true → c.still → c'.still)

theorem Channel.safeTo.refl (stop : Bool) (c : Channel) : c.safeTo stop c := ⟨id, fun _ => id⟩

theorem Channel.safeTo.trans {stop : Bool} {c c' c'' : Channel} (h : c.safeTo stop c') (h' : c'.safeTo stop c'') :
    c.safeTo stop c'' := ⟨h'.1 ∘ h.1, fun on => h'.2 on ∘ h.2 on⟩

/-- INACTIVE is safe on every channel. -/
theorem Channel.safeTo_inactive (stop : Bool) (c : Channel) : c.safeTo stop { c with level := .inactive } :=
  ⟨id, fun _ h => ⟨rfl, h.2⟩⟩

/-- With the STOP line released every level is safe. -/
theorem Channel.safeTo_level (c : Channel) (level : Level) : c.safeTo false { c with level := level } :=
  ⟨id, fun h => nomatch h⟩

theorem Channel.claimed_safe (stop : Bool) (c : Channel) (change : Change) :
    c.safeTo stop { c with level := change.onto stop c.level } := by
  cases stop
  · exact c.safeTo_level _
  · exact c.safeTo_inactive true

theorem Channel.halted_safe (stop : Bool) (c : Channel) : c.safeTo stop c.halted := by
  unfold Channel.halted
  split
  · exact c.safeTo_inactive stop
  · exact .refl stop c

theorem Channel.truncated_safe (stop : Bool) (p : Option PulseId) (c : Channel) : c.safeTo stop (c.truncated p) := by
  unfold Channel.truncated
  split
  · exact c.safeTo_inactive stop
  · exact .refl stop c

/-- No manual pulse and INACTIVE is safe on every channel (R67, R71). -/
theorem Channel.stopped_safe (stop : Bool) (c : Channel) : c.safeTo stop c.stopped :=
  ⟨fun h => ⟨h.1, fun m => absurd rfl m⟩, fun _ _ => ⟨rfl, rfl⟩⟩

theorem Channel.stopped_still (c : Channel) : c.stopped.still := ⟨rfl, rfl⟩

theorem Use.drive_driven (u : Use) : u.drive = .driven ↔ u = .used := by cases u <;> decide

theorem Channel.swapped_safe (stop : Bool) (cfg : ChannelCfg) (c : Channel) : c.safeTo stop (c.swapped cfg) := by
  unfold Channel.swapped
  split
  · exact .refl stop c
  · split
    · rename_i hold
      exact ⟨fun ok => ⟨by simp [hold, Use.drive_driven], ok.2⟩, fun _ still => ⟨rfl, still.2⟩⟩
    · rename_i hold
      exact ⟨fun ok => ⟨by simp [hold, ok.1], ok.2⟩, fun _ still => still⟩

theorem Channel.applied_safe (stop : Bool) (cfg : ChannelCfg) (c : Channel) : c.safeTo stop (Channel.applied cfg) := by
  refine ⟨fun _ => ⟨?_, fun h => absurd rfl h⟩, fun _ _ => ⟨rfl, rfl⟩⟩
  simp [Channel.applied, Use.drive_driven]

theorem Channel.taken_safe (stop : Bool) (c : Channel) : c.safeTo stop c.taken := by
  unfold Channel.taken
  split
  · exact .refl stop c
  · rename_i hold use
    exact ⟨fun ok => ⟨by simp [ok.1, use], fun _ => rfl⟩, fun _ => id⟩
  · exact ⟨fun ok => ⟨by simp, fun _ => rfl⟩, fun _ still => ⟨rfl, still.2⟩⟩

theorem Channel.released_safe (stop : Bool) (c : Channel) : c.safeTo stop c.released := by
  unfold Channel.released
  split
  · exact .refl stop c
  · exact ⟨fun _ => ⟨by simp [Use.drive_driven], fun h => absurd rfl h⟩, fun _ _ => ⟨rfl, rfl⟩⟩

/-- A manual pulse is safe on a HELD channel with the STOP line released (R67). -/
theorem Channel.pulsed_safe (c : Channel) (width : Nat) (held : c.hold = .held) : c.safeTo false (c.pulsed width) :=
  ⟨fun ok => ⟨ok.1, fun _ => held⟩, fun h => nomatch h⟩

theorem Channel.tick_safe (stop : Bool) (c : Channel) : c.safeTo stop c.tick := by
  refine ⟨fun ok => ⟨ok.1, fun h => ok.2 fun none => h ?_⟩, fun _ still => ⟨still.1, ?_⟩⟩
  · simp [Channel.tick, none]
  · simp [Channel.tick, still.2]

/-- A swap's record leaves a still channel still, and its hold as it was (R63). -/
theorem Channel.tookBlock.still {c c' : Channel} {r : ChannelCfg} (h : c.tookBlock r c') (still : c.still) :
    c'.still ∧ c'.hold = c.hold := by
  obtain ⟨same, held, free⟩ := h
  by_cases hs : c.sense = r.sense ∧ c.use = r.use
  · rw [same hs.1 hs.2]
    exact ⟨still, rfl⟩
  · have differs : c.sense ≠ r.sense ∨ c.use ≠ r.use := by tauto
    cases hold : c.hold with
    | free => rw [free differs hold]; exact ⟨⟨rfl, still.2⟩, hold⟩
    | held => rw [held differs hold]; exact ⟨still, hold⟩

/-! ## The operations of the blocks on all the channels -/

/-- From one state to another the STOP line stays as it is and every channel goes over safely. -/
structure State.OutputsSafe (s t : State) : Prop where
  stop : t.stopAsserted = s.stopAsserted
  channel : ∀ i, (s.channels.get i).safeTo s.stopAsserted (t.channels.get i)

theorem State.OutputsSafe.trans {s t u : State} (h : s.OutputsSafe t) (h' : t.OutputsSafe u) : s.OutputsSafe u :=
  ⟨h'.stop.trans h.stop, fun i => (h.channel i).trans (h.stop ▸ h'.channel i)⟩

/-- With the same STOP line and the same channels the outputs are safe. -/
theorem State.OutputsSafe.of_same {s t : State} (filters : t.filters = s.filters := by simp)
    (channels : t.channels = s.channels := by simp) : s.OutputsSafe t :=
  ⟨by rw [State.stopAsserted, State.stopAsserted, filters], fun i => by rw [channels]; exact .refl _ _⟩

theorem State.OutputsSafe.drive {s t : State} (h : s.OutputsSafe t) (ok : s.driveOk) : t.driveOk :=
  fun i => (h.channel i).1 (ok i)

/-- Safe outputs stay safe under STOP if no run begins there. -/
theorem State.OutputsSafe.stopSafe {s t : State} (h : s.OutputsSafe t)
    (run : t.seq.mode.running = true → s.seq.mode.running = true ∨ s.stopAsserted = false) (ok : s.stopSafe) :
    t.stopSafe := by
  rw [State.stopSafe_iff, h.stop]
  intro on
  obtain ⟨idle, still⟩ := ok on
  refine ⟨?_, fun i => (h.channel i).2 on (still i)⟩
  by_contra running
  rcases run (by simpa using running) with r | r
  · rw [idle] at r; cases r
  · rw [on] at r; cases r

theorem State.onChannel_safe (s : State) (i : Fin 8) (f : Channel → Channel)
    (h : (s.channels.get i).safeTo s.stopAsserted (f (s.channels.get i))) : s.OutputsSafe (s.onChannel i f) := by
  refine ⟨rfl, fun j => ?_⟩
  show Channel.safeTo _ _ ((s.channels.modify i f).get j)
  rw [Row.get_modify]
  split
  · subst_vars; exact h
  · exact .refl _ _

theorem State.claim_safe (s : State) (i : Fin 8) (change : Change) : s.OutputsSafe (s.claim i change) :=
  s.onChannel_safe i _ (Channel.claimed_safe _ _ _)

theorem State.takeEdge_safe (s : State) (e : TEdge) : s.OutputsSafe (s.takeEdge e) := by
  have taken : s.OutputsSafe { s with timeline := s.timeline.take e (s.verdict e) } := .of_same rfl rfl
  unfold State.takeEdge
  dsimp only
  split
  · exact taken.trans (State.claim_safe _ _ _)
  · exact taken

theorem State.takeEdges_safe (l : List TEdge) (s : State) : s.OutputsSafe (l.foldl State.takeEdge s) := by
  induction l generalizing s with
  | nil => exact .of_same
  | cons e l ih => exact (s.takeEdge_safe e).trans (ih _)

theorem State.truncate_safe (s : State) : s.OutputsSafe s.truncate := by
  refine ⟨rfl, fun i => ?_⟩
  simpa [State.truncate] using Channel.truncated_safe _ _ _

theorem State.swap_safe (s : State) : s.OutputsSafe s.swap := by
  refine ⟨rfl, fun i => ?_⟩
  simpa [State.swap, State.takeChannelBlock] using Channel.swapped_safe _ _ _

theorem State.swapPending_safe (s : State) (cycle : Option W32) : s.OutputsSafe (s.swapPending cycle) := by
  unfold State.swapPending
  split
  · exact s.swap_safe.trans .of_same
  · exact .of_same

theorem State.cycleStart_safe (s : State) : s.OutputsSafe s.cycleStart := by
  have swapped := State.swapPending_safe { s with seq := s.seq.begin } (some (s.seq.cycle + 1))
  have start : s.OutputsSafe s.startStages := ⟨swapped.stop, swapped.channel⟩
  have edges : s.startStages.OutputsSafe s.startStages.takeEdgesHere := State.takeEdges_safe _ _
  exact start.trans (edges.trans (.of_same rfl rfl))

theorem State.startRun_safe (s : State) (count : Nat) : s.OutputsSafe (s.startRun count) := by
  have cleared : s.OutputsSafe { s with seq := s.seq.ranFor count } := .of_same rfl rfl
  unfold State.startRun
  cases s.block.source with
  | internal => exact cleared.trans (State.cycleStart_safe { s with seq := s.seq.ranFor count })
  | triggered => exact .of_same rfl rfl

theorem State.enterHalted_safe (s : State) (cause : HaltCause) (phase : Nat) (subject : Option Nat) :
    s.OutputsSafe (s.enterHalted cause phase subject) := by
  have halted : s.OutputsSafe (s.haltStages ⟨cause, s.seq.cycle, phase, subject⟩) := by
    refine ⟨rfl, fun i => ?_⟩
    rw [State.haltStages_channel]
    exact (Channel.truncated_safe _ _ _).trans (Channel.halted_safe _ _)
  have swapped := State.swapPending_safe (s.haltStages ⟨cause, s.seq.cycle, phase, subject⟩) none
  rw [State.enterHalted_eq]
  exact halted.trans ⟨swapped.stop, swapped.channel⟩

end Sys2Proof.Machine

/-! What every command that is no reset keeps, for the sequencer, the outputs, the media, the session and the cycle number:
one relation, with one lemma for each operation that the blocks share. -/

namespace Sys2Proof.Machine

/-- The three things that only some commands may do: start cycles, change the media, open a session. -/
structure Leave where
  starts : Prop
  writes : Prop
  opens : Prop

/-- Leave for none of the three. -/
def Leave.none : Leave := ⟨False, False, False⟩

/-- Leave for whatever one of two has leave for. -/
def Leave.within (a b : Leave) : Prop := (a.starts → b.starts) ∧ (a.writes → b.writes) ∧ (a.opens → b.opens)

/-- From one state to another, without a reset between them, the invariants of the sequencer and the outputs hold on, the
sequencer does not come back to IDLE, and what needs leave has it. -/
structure State.Kept (a : Leave) (s t : State) : Prop where
  sequencer : s.seqOk → t.seqOk
  drive : s.driveOk → t.driveOk
  stopSafe : s.stopSafe → t.stopSafe
  idle : s.seq.mode ≠ .idle → t.seq.mode ≠ .idle
  cycle : t.seq.cycle ≠ s.seq.cycle → a.starts
  media : t.media ≠ s.media → a.writes
  session : s.session.isOpen = false → t.session.isOpen = true → a.opens

theorem State.Kept.refl (a : Leave) (s : State) : s.Kept a s :=
  ⟨id, id, id, id, fun h => absurd rfl h, fun h => absurd rfl h, fun h h' => nomatch h.symm.trans h'⟩

theorem State.Kept.trans {a : Leave} {s t u : State} (h : s.Kept a t) (h' : t.Kept a u) : s.Kept a u where
  sequencer := h'.sequencer ∘ h.sequencer
  drive := h'.drive ∘ h.drive
  stopSafe := h'.stopSafe ∘ h.stopSafe
  idle := h'.idle ∘ h.idle
  cycle differs := by
    by_cases e : u.seq.cycle = t.seq.cycle
    · exact h.cycle (e ▸ differs)
    · exact h'.cycle e
  media differs := by
    by_cases e : u.media = t.media
    · exact h.media (e ▸ differs)
    · exact h'.media e
  session closed opened := by
    cases e : t.session.isOpen with
    | false => exact h'.session e opened
    | true => exact h.session closed e

theorem State.Kept.mono {a b : Leave} {s t : State} (h : s.Kept a t) (ab : a.within b) : s.Kept b t where
  sequencer := h.sequencer
  drive := h.drive
  stopSafe := h.stopSafe
  idle := h.idle
  cycle := ab.1 ∘ h.cycle
  media := ab.2.1 ∘ h.media
  session closed := ab.2.2 ∘ h.session closed

/-! ## The invariant of the sequencer -/

/-- Where the phase stands in each state of the sequencer, in cycles of a length (R1). -/
def Sequencer.phaseOk (q : Sequencer) (length : Nat) : Prop :=
  match q.mode with
  | .cycling => q.phase < length
  | .waiting => q.phase = length
  | _ => q.phase = 0

theorem State.seqOk_iff (s : State) :
    s.seqOk ↔
      100 ≤ s.plans.active.cycle.length ∧ 100 ≤ s.plans.staged.cycle.length ∧
        (s.startup.stage ≠ .complete → s.seq.mode = .idle) ∧ s.seq.phaseOk s.plans.active.cycle.length ∧
        (s.plans.commitPending = true → s.seq.mode.running = true) ∧
        (s.seq.halt.isSome = true ↔ s.seq.mode = .halted) := Iff.rfl

/-- In IDLE and HALTED the phase is 0 whatever the length. -/
theorem Sequencer.phaseOk_length {q : Sequencer} {n : Nat} (h : q.phaseOk n) (stands : q.mode.running = false) (m : Nat) :
    q.phaseOk m := by
  unfold Sequencer.phaseOk at h ⊢
  cases mode : q.mode <;> simp_all [Mode.running]

/-- Two sequencers stand at one point of one run: at most their timers, flags and counts differ. -/
def Sequencer.sameRun (q q' : Sequencer) : Prop :=
  q'.mode = q.mode ∧ q'.phase = q.phase ∧ q'.cycle = q.cycle ∧ q'.halt = q.halt

theorem Sequencer.sameRun.refl (q : Sequencer) : q.sameRun q := ⟨rfl, rfl, rfl, rfl⟩

/-- The plans keep their lengths in range, a commit waits for a run alone, and in a run the active length stays. -/
def State.plansMayFollow (s t : State) : Prop :=
  s.seqOk →
    100 ≤ t.plans.active.cycle.length ∧ 100 ≤ t.plans.staged.cycle.length ∧
      (t.plans.commitPending = true → s.seq.mode.running = true) ∧
      (s.seq.mode.running = true → t.plans.active.cycle.length = s.plans.active.cycle.length)

theorem State.plansMayFollow.of_same {s t : State} (h : t.plans = s.plans) : s.plansMayFollow t := by
  intro ok
  obtain ⟨active, staged, -, -, pending, -⟩ := ok
  rw [h]
  exact ⟨active, staged, pending, fun _ => rfl⟩

/-- An edit keeps the length of the staged plan in range and leaves the rest of the plans alone. -/
theorem State.plansMayFollow.of_staged {s t : State} (active : t.plans.active = s.plans.active)
    (pending : t.plans.commitPending = true → s.plans.commitPending = true ∨ s.seq.mode.running = true)
    (staged : 100 ≤ s.plans.active.cycle.length → 100 ≤ s.plans.staged.cycle.length →
      100 ≤ t.plans.staged.cycle.length) : s.plansMayFollow t := by
  intro ok
  obtain ⟨hactive, hstaged, -, -, hpending, -⟩ := ok
  refine ⟨active ▸ hactive, staged hactive hstaged, fun h => ?_, fun _ => by rw [active]⟩
  exact (pending h).elim hpending id

theorem State.seqOk.of_sameRun {s t : State} (ok : s.seqOk) (run : s.seq.sameRun t.seq) (plans : s.plansMayFollow t)
    (stage : s.startup.stage = .complete → t.startup.stage = .complete) : t.seqOk := by
  obtain ⟨active, staged, pending, length⟩ := plans ok
  obtain ⟨mode, phase, -, halt⟩ := run
  rw [State.seqOk_iff] at ok ⊢
  obtain ⟨-, -, starting, phaseOk, -, record⟩ := ok
  rw [mode, halt]
  refine ⟨active, staged, fun h => starting fun h' => h (stage h'), ?_, pending, record⟩
  have follows : s.seq.phaseOk t.plans.active.cycle.length := by
    cases running : s.seq.mode.running with
    | false => exact Sequencer.phaseOk_length phaseOk running _
    | true => rw [length running]; exact phaseOk
  unfold Sequencer.phaseOk at follows ⊢
  rw [mode, phase]
  exact follows

/-- A running sequencer runs behind a completed start-up alone, with no halt record (R12, R125). -/
theorem State.seqOk.of_running {s : State} (ok : s.seqOk) (running : s.seq.mode.running = true) :
    s.startup.stage = .complete ∧ s.seq.halt = none := by
  obtain ⟨-, -, starting, -, -, record⟩ := ok
  refine ⟨?_, ?_⟩
  · by_contra h
    rw [starting h] at running
    cases running
  · cases halt : s.seq.halt with
    | none => rfl
    | some r =>
      rw [record.mp (by rw [halt]; rfl)] at running
      cases running

/-! ## Operations that stand apart from the run -/

/-- A happening that leaves the run where it stands. -/
theorem State.Kept.of_sameRun {a : Leave} {s t : State} (safe : s.OutputsSafe t) (plans : s.plansMayFollow t)
    (run : s.seq.sameRun t.seq := by exact .refl _)
    (stage : s.startup.stage = .complete → t.startup.stage = .complete := by simp) (media : t.media = s.media := by simp)
    (session : t.session.isOpen = s.session.isOpen := by simp) : s.Kept a t where
  sequencer ok := ok.of_sameRun run plans stage
  drive := safe.drive
  stopSafe := safe.stopSafe fun h => .inl (run.1 ▸ h)
  idle h := run.1 ▸ h
  cycle h := absurd run.2.2.1 h
  media h := absurd media h
  session closed opened := nomatch (session.symm.trans opened).symm.trans closed

/-- A happening that leaves the sequencer, the plans, the channels, the filters, the media and the session alone. -/
theorem State.Kept.of_parts {a : Leave} {s t : State} (seq : t.seq = s.seq := by simp)
    (plans : t.plans = s.plans := by simp) (channels : t.channels = s.channels := by simp)
    (filters : t.filters = s.filters := by simp)
    (stage : s.startup.stage = .complete → t.startup.stage = .complete := by simp)
    (media : t.media = s.media := by simp) (session : t.session.isOpen = s.session.isOpen := by simp) : s.Kept a t :=
  .of_sameRun (.of_same filters channels) (.of_same plans) (seq ▸ .refl _) stage media session

/-! ## Halts and cycle starts -/

/-- What goes in at a swap point keeps the lengths in range and leaves no commit pending (R47, R48). -/
theorem PlanBuffers.handedOver.lengths {p p' : PlanBuffers} {cycle : Option W32} (h : p.handedOver p' cycle)
    (active : 100 ≤ p.active.cycle.length) (staged : 100 ≤ p.staged.cycle.length) :
    100 ≤ p'.active.cycle.length ∧ 100 ≤ p'.staged.cycle.length ∧ p'.commitPending = false := by
  unfold PlanBuffers.handedOver at h
  split at h
  · subst h
    exact ⟨staged, staged, rfl⟩
  · rename_i none
    subst h
    exact ⟨active, staged, by simpa using none⟩

theorem State.enterHalted_kept (a : Leave) (s : State) (cause : HaltCause) (phase : Nat) (subject : Option Nat)
    (running : s.seq.mode.running = true) : s.Kept a (s.enterHalted cause phase subject) := by
  obtain ⟨seq, -, -, -, -, -, -, -, plans, -⟩ := s.enterHalted_spec cause phase subject
  have safe := s.enterHalted_safe cause phase subject
  unfold Sequencer.haltedAs at seq
  refine ⟨fun ok => ?_, safe.drive, safe.stopSafe ?_, ?_, ?_, ?_, ?_⟩
  · obtain ⟨complete, -⟩ := ok.of_running running
    rw [State.seqOk_iff] at ok ⊢
    obtain ⟨active, staged, -⟩ := ok
    obtain ⟨active', staged', none⟩ := plans.lengths active staged
    rw [seq, none]
    exact ⟨active', staged', by simp [complete], rfl, by simp, by simp⟩
  · rw [seq]
    exact fun h => nomatch h
  · simp [seq]
  · simp [seq]
  · simp
  · simp +contextual

/-- A cycle starts in a run with its lengths in range (R5). -/
theorem State.cycleStart_seqOk {s : State} (active : 100 ≤ s.plans.active.cycle.length)
    (staged : 100 ≤ s.plans.staged.cycle.length) (complete : s.startup.stage = .complete) (record : s.seq.halt = none) :
    s.cycleStart.seqOk := by
  obtain ⟨seq, plans, -⟩ := s.cycleStart_spec
  unfold Sequencer.startedAs at seq
  obtain ⟨active', staged', none⟩ := plans.lengths active staged
  rw [State.seqOk_iff, seq, none]
  exact ⟨active', staged', by simp [complete], show 0 < _ by omega, by simp, by simp [record]⟩

theorem State.cycleStart_mode (s : State) : s.cycleStart.seq.mode = .cycling := by
  have seq := s.cycleStart_spec.1
  rw [seq]

theorem State.cycleStart_kept {a : Leave} (s : State) (leave : a.starts) (running : s.seq.mode.running = true) :
    s.Kept a s.cycleStart where
  sequencer ok := by
    obtain ⟨complete, record⟩ := ok.of_running running
    exact State.cycleStart_seqOk ok.1 ok.2.1 complete record
  drive := s.cycleStart_safe.drive
  stopSafe := s.cycleStart_safe.stopSafe fun _ => .inl running
  idle _ := by simp [State.cycleStart_mode]
  cycle _ := leave
  media := by simp
  session := by simp +contextual

/-- A RUN of an INTERNAL plan starts a cycle (R12). -/
theorem State.startRun_internal {s : State} (h : s.block.source = .internal) (count : Nat) :
    s.startRun count = ({ s with seq := s.seq.ranFor count } : State).cycleStart := by
  unfold State.startRun
  rw [h]
  rfl

/-- A RUN of a TRIGGERED plan arms (R12). -/
theorem State.startRun_triggered {s : State} (h : s.block.source = .triggered) (count : Nat) :
    s.startRun count =
      { s with
        seq := { s.seq.ranFor count with mode := .armed, phase := 0, endDue := false, wait := s.freshWait } } := by
  unfold State.startRun
  rw [h]
  rfl

/-- A RUN that has passed its checks leaves a sequencer in form (R12). -/
theorem State.startRun_seqOk {s : State} (ok : s.seqOk) (stands : s.seq.mode.running = false)
    (complete : s.startup.stage = .complete) (count : Nat) : (s.startRun count).seqOk := by
  obtain ⟨active, staged, -, -, pending, -⟩ := ok
  have none : s.plans.commitPending = false := by
    by_contra h
    rw [pending (by simpa using h)] at stands
    cases stands
  cases source : s.block.source with
  | internal =>
    rw [State.startRun_internal source]
    exact State.cycleStart_seqOk active staged complete rfl
  | triggered =>
    rw [State.startRun_triggered source, State.seqOk_iff]
    exact ⟨active, staged, fun h => absurd complete h, rfl, fun _ => rfl, by simp [Sequencer.ranFor]⟩

theorem State.startRun_mode (s : State) (count : Nat) : (s.startRun count).seq.mode ≠ .idle := by
  cases source : s.block.source with
  | internal => simp [State.startRun_internal source, State.cycleStart_mode]
  | triggered => simp [State.startRun_triggered source]

theorem State.startRun_kept {a : Leave} (s : State) (count : Nat) (leave : a.starts)
    (stands : s.seq.mode.running = false) (released : s.stopAsserted = false) (complete : s.startup.stage = .complete) :
    s.Kept a (s.startRun count) where
  sequencer ok := State.startRun_seqOk ok stands complete count
  drive := (s.startRun_safe count).drive
  stopSafe := (s.startRun_safe count).stopSafe fun _ => .inr released
  idle _ := s.startRun_mode count
  cycle _ := leave
  media := by simp
  session := by simp +contextual

/-- Entry into WAITING at the end of a cycle (R7). -/
theorem State.enterWaiting_kept (a : Leave) (s : State) (cycling : s.seq.mode = .cycling) : s.Kept a s.enterWaiting where
  sequencer ok := by
    have running : s.seq.mode.running = true := by rw [cycling]; rfl
    obtain ⟨complete, record⟩ := ok.of_running running
    exact ⟨ok.1, ok.2.1, fun h => absurd complete h, rfl, fun _ => rfl, by simp [State.enterWaiting, record]⟩
  drive := id
  stopSafe := (State.OutputsSafe.of_same (t := s.enterWaiting)).stopSafe fun _ => .inl (by rw [cycling]; rfl)
  idle _ := nofun
  cycle h := absurd rfl h
  media h := absurd rfl h
  session := by simp +contextual

/-- One tick of the clock (R1). -/
theorem State.tick_kept (a : Leave) (s : State) : s.Kept a s.tick := by
  have mode : (s.seq.tick s.block.length).mode = s.seq.mode ∧ (s.seq.tick s.block.length).halt = s.seq.halt ∧
      (s.seq.tick s.block.length).cycle = s.seq.cycle := by
    unfold Sequencer.tick
    (repeat' split) <;> exact ⟨rfl, rfl, rfl⟩
  obtain ⟨mode, record, cycle⟩ := mode
  have phase : s.seq.phaseOk s.plans.active.cycle.length →
      (s.seq.tick s.block.length).phaseOk s.plans.active.cycle.length := by
    intro h
    unfold Sequencer.phaseOk at h ⊢
    rw [mode]
    cases m : s.seq.mode <;> simp only [m] at h ⊢
    case cycling =>
      simp only [Sequencer.tick, m]
      split
      · assumption
      · exact h
    all_goals simpa [Sequencer.tick, m] using h
  have safe : s.OutputsSafe s.tick := by
    refine ⟨rfl, fun i => ?_⟩
    simpa [State.tick] using Channel.tick_safe _ _
  refine ⟨fun ok => ?_, safe.drive, safe.stopSafe fun h => .inl (mode ▸ h), fun h => mode ▸ h, fun h => absurd cycle h, ?_, ?_⟩
  · rw [State.seqOk_iff] at ok ⊢
    obtain ⟨active, staged, starting, phaseOk, pending, halted⟩ := ok
    exact ⟨active, staged, mode ▸ starting, phase phaseOk, mode ▸ pending, mode ▸ record ▸ halted⟩
  · simp
  · simp +contextual [State.tick]

end Sys2Proof.Machine

/-! What the happenings of the cycle, the lines and start-up keep. -/

namespace Sys2Proof.Machine

/-! ## The end of a cycle (R6, R7, R96) -/

theorem State.missReport_kept (a : Leave) (s : State) (w : Window) : s.Kept a (s.missReport w) := by
  unfold State.missReport
  split
  · rename_i cycling
    exact s.enterHalted_kept a _ _ _ (by rw [cycling]; rfl)
  · exact .refl a s

theorem State.missReports_kept (a : Leave) (ws : List Window) (s : State) : s.Kept a (ws.foldl State.missReport s) := by
  induction ws generalizing s with
  | nil => exact .refl a s
  | cons w ws ih => exact (s.missReport_kept a w).trans (ih _)

theorem State.closeAndReport_kept (a : Leave) (s : State) (phase : Nat) : s.Kept a (s.closeAndReport phase) :=
  (State.Kept.of_parts (t := s.closeWindows phase)).trans (State.missReports_kept a _ _)

theorem State.afterCloses_kept {a : Leave} (s : State) (leave : a.starts) (cycling : s.seq.mode = .cycling) :
    s.Kept a s.afterCloses := by
  have running : s.seq.mode.running = true := by rw [cycling]; rfl
  let left : State := { s with monitor := { s.monitor with inProgress := false } }
  have ended : s.Kept a left := .of_parts rfl rfl rfl rfl id rfl rfl
  unfold State.afterCloses
  dsimp only
  split
  · exact ended.trans (left.enterHalted_kept a _ _ _ running)
  · split
    · exact ended.trans (left.enterHalted_kept a _ _ _ running)
    · split
      · exact ended.trans (left.cycleStart_kept leave running)
      · exact ended.trans (left.enterWaiting_kept a cycling)

theorem State.endCycle_kept {a : Leave} (s : State) (leave : a.starts) : s.Kept a s.endCycle := by
  have closed := s.closeAndReport_kept a s.block.length
  unfold State.endCycle
  dsimp only
  split
  · rename_i cycling
    exact closed.trans (State.afterCloses_kept _ leave cycling)
  · exact closed

/-! ## Input edges (R8 to R10) -/

theorem State.cut_kept {a : Leave} (s : State) (leave : a.starts) (running : s.seq.mode.running = true) :
    s.Kept a s.cut := by
  have cut : s.Kept a s.cutFrom :=
    .of_sameRun ⟨s.truncate_safe.stop, s.truncate_safe.channel⟩ (.of_same rfl) (.refl _) id rfl rfl
  rw [State.cut_eq]
  split
  · exact cut.trans (s.cutFrom.enterHalted_kept a _ _ _ running)
  · split
    · exact cut.trans (s.cutFrom.enterHalted_kept a _ _ _ running)
    · exact cut.trans (s.cutFrom.cycleStart_kept leave running)

/-- The Cycle Controller starts or cuts a cycle in a running state alone (R8 to R10). -/
theorem State.decision_running {s : State} {i : Fin 4} {d : Slope} (h : s.decision i d ≠ .plain) :
    s.seq.mode.running = true := by
  unfold State.decision at h
  split at h
  · split at h <;> simp_all [Mode.running]
  · exact absurd rfl h

theorem State.controllerTakes_kept {a : Leave} (s : State) (leave : a.starts) (i : Fin 4) (d : Slope) :
    s.Kept a (s.controllerTakes i d) := by
  have running := State.decision_running (s := s) (i := i) (d := d)
  unfold State.controllerTakes
  cases decided : s.decision i d with
  | plain => exact .refl a s
  | started => exact s.cycleStart_kept leave (running (by simp [decided]))
  | early => exact .of_parts
  | cutStarted => exact s.cut_kept leave (running (by simp [decided]))
  | cutHalted => exact s.cut_kept leave (running (by simp [decided]))

theorem State.captureEdge_kept (a : Leave) (before after : State) (i : Fin 4) (d : Slope) (window : Option Nat) :
    after.Kept a (State.captureEdge before after i d window) := by
  unfold State.captureEdge
  split
  · exact .of_parts
  · exact .refl a after

theorem State.takeInputEdge_kept {a : Leave} (s : State) (leave : a.starts) (i : Fin 4) (d : Slope) (first : Bool) :
    s.Kept a (s.takeInputEdge i d first) := by
  have seen (t : State) : t.Kept a (t.monitorTakes i d) := .of_parts
  unfold State.takeInputEdge
  split
  · exact (seen s).trans ((State.controllerTakes_kept _ leave i d).trans (State.captureEdge_kept a _ _ i d _))
  · exact (s.controllerTakes_kept leave i d).trans ((seen _).trans (State.captureEdge_kept a _ _ i d _))

theorem State.inputEdges_kept {a : Leave} (s : State) (leave : a.starts) (i : Fin 4) (d : Slope) :
    s.Kept a (s.inputEdges i d) := by
  have settled : s.Kept a { s.onInput i Filter.settle with choices := s.choices + 1 } :=
    .of_sameRun ⟨rfl, fun _ => .refl _ _⟩ (.of_same rfl) (.refl _) id rfl rfl
  exact settled.trans (State.takeInputEdge_kept _ leave i d _)

/-! ## Lapses, starving and the STOP line (R11, R18, R20) -/

theorem State.closeSession_kept (a : Leave) (s : State) : s.Kept a s.closeSession :=
  ⟨id, id, id, id, fun h => absurd rfl h, fun h => absurd rfl h, fun _ h => nomatch h⟩

theorem State.lapses_kept (a : Leave) (s : State) : s.Kept a s.lapses := by
  unfold State.lapses
  dsimp only
  split
  · rename_i halts
    exact (s.closeSession_kept a).trans (s.closeSession.enterHalted_kept a _ _ _ halts.2)
  · exact s.closeSession_kept a

theorem State.starves_kept (a : Leave) (s : State) (running : s.seq.mode.running = true) : s.Kept a s.starves := by
  let told : State := State.raise { s with seq := { s.seq with wait := none } } (.merging .starved s.seq.cycle)
  have tells : s.Kept a told := .of_sameRun (.of_same rfl rfl) (.of_same rfl) ⟨rfl, rfl, rfl, rfl⟩ id rfl rfl
  unfold State.starves
  dsimp only
  split
  · exact tells
  · exact tells.trans (told.enterHalted_kept a _ _ _ running)

/-- A release of the STOP line: where it stays asserted, it was asserted before. -/
theorem State.settleStop_kept (a : Leave) (s : State) (asserted : s.stopAsserted = true) : s.Kept a s.settleStop :=
  ⟨fun ok => ok.of_sameRun (.refl _) (.of_same rfl) id, id, fun safe _ => safe asserted, id, fun h => absurd rfl h,
    fun h => absurd rfl h, fun closed h => nomatch h.symm.trans closed⟩

/-- A halt leaves still channels still (R16, R63). -/
theorem HaltedFrom.still {s t : State} {cause : HaltCause} {phase : Nat} {subject : Option Nat}
    (h : HaltedFrom s t cause phase subject) (i : Fin 8) (still : (s.channels.get i).still) :
    (t.channels.get i).still ∧ (t.channels.get i).hold = (s.channels.get i).hold := by
  obtain ⟨-, -, -, block, -⟩ := h
  have level : (if (s.channels.get i).hold = .free then { s.channels.get i with level := .inactive }
      else s.channels.get i) = s.channels.get i := by
    rw [← still.1]
    exact ite_self _
  have hands := block i
  rw [level] at hands
  unfold PlanBuffers.handsBlock at hands
  split at hands
  · exact hands.still still
  · rw [hands]
    exact ⟨still, rfl⟩

/-- An assertion of the STOP line leaves every channel still and no run (R20, R71). -/
theorem State.stops_still (s : State) :
    s.stops.seq.mode.running = false ∧ ∀ i, (s.stops.channels.get i).still := by
  have quiet : ∀ i, ((s.settleStop.onChannels Channel.stopped).channels.get i).still := by
    intro i
    simpa [State.onChannels] using Channel.stopped_still _
  unfold State.stops
  dsimp only
  split
  · have halted := (s.settleStop.onChannels Channel.stopped).enterHalted_spec .stopLine s.seq.phase none
    refine ⟨?_, fun i => (halted.still i (quiet i)).1⟩
    rw [halted.1]
    rfl
  · rename_i stands
    exact ⟨by simpa using stands, quiet⟩

theorem State.stops_kept (a : Leave) (s : State) : s.Kept a s.stops := by
  let quiet := s.settleStop.onChannels Channel.stopped
  have halts : quiet.Kept a s.stops := by
    unfold State.stops
    dsimp only
    split
    · rename_i running
      exact quiet.enterHalted_kept a _ _ _ running
    · exact .refl a quiet
  have drive (ok : s.driveOk) : quiet.driveOk := by
    intro i
    have stopped := (Channel.stopped_safe true (s.channels.get i)).1 (ok i)
    rwa [show quiet.channels.get i = (s.channels.get i).stopped from Row.get_mapIdx _ _ _]
  exact ⟨fun ok => halts.sequencer (ok.of_sameRun (.refl _) (.of_same rfl) id), fun ok => halts.drive (drive ok),
    fun _ _ => s.stops_still, halts.idle, halts.cycle, halts.media, halts.session⟩

/-! ## Commits and start-up (R46, R50, R126 to R131) -/

/-- A swap with no run puts the staged plan in force (R47). -/
theorem State.swap_kept (a : Leave) (s : State) (stands : s.seq.mode.running = false) : s.Kept a s.swap := by
  refine .of_sameRun s.swap_safe fun ok => ?_
  obtain ⟨-, staged, -, -, pending, -⟩ := ok
  exact ⟨staged, staged, pending, fun running => nomatch running.symm.trans stands⟩

theorem State.begins_kept (a : Leave) (s : State) (rate1 rate0 : Wire) (inReset : s.startup.stage = .inReset) :
    s.Kept a (s.begins rate1 rate0) :=
  .of_parts (stage := by simp [inReset])

/-- What every result of a reader's continuation has, every result of the chain has. -/
theorem forall_some_of_bind {α β : Type} {P : β → Prop} {o : Option α} {f : α → Option β}
    (h : ∀ a, o = some a → ∀ b, f a = some b → P b) : ∀ b, (o >>= f) = some b → P b := by
  intro b hb
  obtain ⟨a, read, found⟩ := Option.bind_eq_some_iff.mp hb
  exact h a read b found

/-- A cycle block that is read has its length in range (R26). -/
theorem readCycleBlock_length {r : List Byte} : ∀ p, readCycleBlock r = some p → 100 ≤ p.1.length := by
  unfold readCycleBlock
  iterate 11 refine forall_some_of_bind fun _ _ => ?_
  intro p h
  split at h
  · rename_i long
    cases h
    exact long
  · cases h

/-- A body that is read has a cycle length in range (R26, R175). -/
theorem Plan.ofBytes_length {bs : List Byte} : ∀ p, Plan.ofBytes bs = some p → 100 ≤ p.cycle.length := by
  unfold Plan.ofBytes
  refine forall_some_of_bind fun _ _ => ?_
  refine forall_some_of_bind fun _ read => ?_
  iterate 6 refine forall_some_of_bind fun _ _ => ?_
  refine forall_some_of_bind fun _ _ p h => ?_
  dsimp only at h
  split at h
  · cases h
    exact readCycleBlock_length _ read
  · cases h

theorem State.readProfile_length {s : State} {e : DirEntry} {p : Plan} (h : s.readProfile e = some p) :
    100 ≤ p.cycle.length := by
  unfold State.readProfile at h
  split at h
  · cases h
  · dsimp only at h
    split at h
    · exact Plan.ofBytes_length _ h
    · cases h

end Sys2Proof.Machine

namespace Sys2Proof.Machine

/-- Stage 4 leaves the stage, and the plans as they were or one plan of a length in range as both (R50, R128). -/
theorem State.bootLoad_cases (s : State) :
    s.bootLoad.startup.stage = s.startup.stage ∧
      (s.bootLoad.plans = s.plans ∨ ∃ p : Plan, 100 ≤ p.cycle.length ∧ s.bootLoad.plans = (s.install p).plans) := by
  unfold State.bootLoad
  split
  · unfold State.bootFrom
    split
    · exact ⟨rfl, .inl rfl⟩
    · split
      · exact ⟨rfl, .inl rfl⟩
      · rename_i read
        split
        · exact ⟨rfl, .inl rfl⟩
        · exact ⟨rfl, .inr ⟨_, State.readProfile_length read, rfl⟩⟩
  · exact ⟨rfl, .inl rfl⟩

/-- Stage 4 finds the sequencer in IDLE, with no commit pending (R125, R128). -/
theorem State.bootLoad_kept (a : Leave) (s : State) (starting : s.startup.stage ≠ .complete) : s.Kept a s.bootLoad := by
  obtain ⟨stage, plans⟩ := s.bootLoad_cases
  refine .of_sameRun .of_same (fun ok => ?_) (by simp [Sequencer.sameRun]) fun h => absurd h starting
  obtain ⟨active, staged, idle, -, pending, -⟩ := ok
  rcases plans with same | ⟨p, length, installed⟩
  · rw [same]
    exact ⟨active, staged, pending, fun _ => rfl⟩
  · rw [installed]
    exact ⟨length, length, pending, fun running => by rw [idle starting] at running; cases running⟩

theorem State.applyChannelBlock_kept (a : Leave) (s : State) : s.Kept a s.applyChannelBlock := by
  refine .of_sameRun ⟨rfl, fun i => ?_⟩ (.of_same rfl)
  simpa [State.applyChannelBlock] using Channel.applied_safe _ _ _

/-- Stages 6 and 7, with the RUN that stage 6 may make (R130, R131). -/
theorem State.runStage_kept {a : Leave} (s : State) (leave : a.starts) (booting : s.startup.stage = .booting) :
    s.Kept a s.runStage := by
  unfold State.runStage
  refine State.Kept.trans (t := s.autoRunStage.reportStage) ?_ .of_parts
  let decided : State := { s with startup := { s.startup with autoResult := s.autoDecision } }
  unfold State.autoRunStage
  dsimp only
  split
  · rename_i started
    have released : s.stopAsserted = false := by
      unfold State.autoDecision at started
      (repeat' split at started) <;> simp_all
    let complete : State := { s with startup := { decided.startup with stage := .complete } }
    have same : complete.startRun 0 = (decided.startRun 0).beside complete := State.startRun_beside decided complete 0
    have run : s.Kept a (complete.startRun 0) :=
      { sequencer ok := by
          have idle : s.seq.mode = .idle := ok.2.2.1 (by simp [booting])
          have form : complete.seqOk := ok.of_sameRun (.refl _) (.of_same rfl) fun _ => rfl
          exact State.startRun_seqOk form (show s.seq.mode.running = false by rw [idle]; rfl) rfl 0
        drive := (complete.startRun_safe 0).drive
        stopSafe := (complete.startRun_safe 0).stopSafe fun _ => .inr released
        idle := fun _ => complete.startRun_mode 0
        cycle := fun _ => leave
        media := by simp [complete]
        session := by simp +contextual [complete] }
    refine run.trans ?_
    rw [same]
    exact .of_parts rfl rfl rfl rfl (fun _ => rfl) (by simp [State.beside, complete]) (by simp [State.beside, complete])
  · exact .of_parts (stage := fun _ => rfl)

/-- The end of the scan with the stages behind it (R127 to R131). -/
theorem State.scanEnds_kept {a : Leave} (s : State) (leave : a.starts) (found : Directory) (report : ScanReport)
    (scanning : s.startup.stage = .scanning) : s.Kept a (s.scanEnds found report) := by
  have done : s.Kept a (s.scanDone found report) := .of_parts (stage := by simp [scanning])
  have loaded := (s.scanDone found report).bootLoad_kept a (by simp [State.scanDone])
  have booting : (s.scanDone found report).bootLoad.applyChannelBlock.startup.stage = .booting :=
    (s.scanDone found report).bootLoad_cases.1
  have booted := done.trans (loaded.trans (State.applyChannelBlock_kept a _))
  unfold State.scanEnds
  dsimp only
  split
  · exact booted.trans (State.runStage_kept _ leave booting)
  · exact booted

/-! ## Resets (R123) -/

/-- A reset leaves every invariant of the sequencer and the outputs, stage IN_RESET, IDLE and no session (R123). -/
theorem State.resetBy_holds (s : State) (cause : ResetCause) (torn : List Host.Cell) (powered : Bool) :
    (s.resetBy cause torn powered).seqOk ∧ (s.resetBy cause torn powered).driveOk ∧
      (s.resetBy cause torn powered).stopSafe ∧ (s.resetBy cause torn powered).startup.stage = .inReset ∧
      (s.resetBy cause torn powered).session.isOpen = false ∧ (s.resetBy cause torn powered).startup.cause = cause := by
  have channel (i : Fin 8) : (s.resetBy cause torn powered).channels.get i = Channel.reset := Row.get_fill _ i
  have length : 100 ≤ Plan.empty.cycle.length := by decide
  refine ⟨⟨length, length, fun _ => rfl, rfl, nofun, nofun, nofun⟩, fun i => ?_, nofun, rfl, rfl, rfl⟩
  rw [channel]
  exact ⟨by decide, nofun⟩

end Sys2Proof.Machine

/-! What requests keep: the Request Handler's part, once, and each owner's. -/

namespace Sys2Proof.Machine

/-! ## Taking and answering (R147 to R151) -/

@[simp] theorem State.uncache_isOpen (s : State) (code : Nat) (q : Req) :
    (s.uncache code q).session.isOpen = s.session.isOpen := by
  unfold State.uncache
  split <;> rfl

@[simp] theorem State.cacheReply_isOpen (s : State) (code : Nat) (q : Req) (r : Reply) :
    (s.cacheReply code q r).session.isOpen = s.session.isOpen := by
  unfold State.cacheReply
  split <;> rfl

@[simp] theorem okay_state (s : State) : (okay s).state = s := rfl

@[simp] theorem accepted_state (s : State) : (accepted s).state = s := rfl

theorem State.send_kept (a : Leave) (s : State) (r : Reply) (first : Bool) : s.Kept a (s.send r first) := .of_parts

theorem Answer.reply_kept (a : Leave) (x : Answer) (code : Nat) (q : Req) : x.state.Kept a (x.reply code q) := by
  unfold Answer.reply
  exact .of_parts

/-- The examination keeps what the owner keeps, who is asked behind a completed start-up, but for HELLO and STATUS (R148). -/
theorem State.examine_kept {a : Leave} (s : State) (code : Nat) (q : Req) (execute : State → Answer)
    (owns : ∀ u : State, u.startup.stage = .complete ∨ alwaysTaken code = true → u.Kept a (execute u).state) :
    s.Kept a (s.examine code q execute) := by
  unfold State.examine
  split
  · exact s.send_kept a _ _
  · rename_i gate
    split
    · exact s.send_kept a _ _
    · split
      · exact s.send_kept a _ _
      · have found : s.Kept a (s.uncache code q) := .of_parts
        have asked : (s.uncache code q).startup.stage = .complete ∨ alwaysTaken code = true := by
          rw [(s.uncache_keeps code q).2.2.2.2.2.2.2.2.2.1]
          by_contra h
          exact gate (by simpa using h)
        exact found.trans ((owns _ asked).trans (Answer.reply_kept a _ code q))

theorem State.takeRequest_kept {a : Leave} (s : State) (code : Nat) (q : Req) (execute : State → Answer)
    (owns : ∀ u : State, u.startup.stage = .complete ∨ alwaysTaken code = true → u.Kept a (execute u).state) :
    s.Kept a (s.takeRequest code q fun t => t.examine code q execute) := by
  unfold State.takeRequest
  split
  · split
    · split
      · exact State.Kept.trans (t := s.cleared) .of_parts (s.cleared.examine_kept code q execute owns)
      · exact .of_parts
    · exact .of_parts (session := by unfold State.offer; split <;> rfl)
  · exact .refl a s

/-- A request keeps what its owner keeps. -/
theorem requestStep_kept {a : Leave} {π : Type} {code : Nat} {read : List Byte → Option π} {owner : π → State → Answer}
    {q : Req} {s t : State} (h : requestStep code read owner q s = .next t)
    (owns : ∀ (p : π) (u : State), u.startup.stage = .complete ∨ alwaysTaken code = true →
      u.Kept a (owner p u).state) : s.Kept a t := by
  cases h
  refine s.takeRequest_kept code q _ fun u asked => ?_
  unfold executeWith
  split
  · exact .refl a u
  · exact owns _ u asked

/-! ## Run control -/

theorem runOwner_kept {a : Leave} (leave : a.starts) (count : Nat) (s : State) (complete : s.startup.stage = .complete) :
    s.Kept a (runOwner count s).state := by
  unfold runOwner
  split
  · exact .refl a s
  · split
    · exact .refl a s
    · rename_i stands released
      split
      · exact s.startRun_kept count leave (by simpa using stands) (by simpa using released) complete
      · exact .refl a s

theorem finishOwner_kept (a : Leave) (p : Unit) (s : State) : s.Kept a (finishOwner p s).state := by
  unfold finishOwner
  split
  · exact .of_sameRun (.of_same rfl rfl) (.of_same rfl) ⟨rfl, rfl, rfl, rfl⟩ id rfl rfl
  · rename_i armed
    exact s.enterHalted_kept a _ _ _ (by rw [armed]; rfl)
  · rename_i waiting
    exact s.enterHalted_kept a _ _ _ (by rw [waiting]; rfl)
  · exact .refl a s
  · exact .refl a s

theorem haltOwner_kept (a : Leave) (p : Unit) (s : State) : s.Kept a (haltOwner p s).state := by
  unfold haltOwner
  split
  · rename_i running
    exact s.enterHalted_kept a _ _ _ running
  · exact .refl a s

/-! ## Plans -/

/-- A staged plan whose length is in range takes another's place. -/
theorem State.stage_kept (a : Leave) (s : State) (p : Plan)
    (length : 100 ≤ s.plans.active.cycle.length → 100 ≤ s.plans.staged.cycle.length → 100 ≤ p.cycle.length) :
    s.Kept a (s.stage p) :=
  .of_sameRun .of_same (.of_staged rfl .inl length)

/-- What the order of an edit's examination keeps (R25). -/
theorem edit_kept {a : Leave} {s : State} {bad : Option Nat} {rest : Answer} (h : bad = none → s.Kept a rest.state) :
    s.Kept a (edit s bad rest).state := by
  unfold edit
  split
  · exact .refl a s
  · split
    · exact .refl a s
    · exact h rfl

/-- A cycle block whose present fields are in range has its length in range, if the block it replaces has (R26). -/
theorem SetCycle.onto_length {c : SetCycle} {b : CycleBlock} (good : c.bad = none) (h : 100 ≤ b.length) :
    100 ≤ (c.onto b).length := by
  cases field : c.length with
  | none => simpa [SetCycle.onto, field] using h
  | some n =>
    have range := List.find?_eq_none.mp (Option.map_eq_none_iff.mp good)
      (2, absentOr (fun n => decide (100 ≤ n ∧ n ≤ 16777215)) c.length) (by simp)
    simp [field, absentOr] at range
    simpa [SetCycle.onto, field] using range.1

theorem planSetCycleOwner_kept (a : Leave) (c : SetCycle) (s : State) : s.Kept a (planSetCycleOwner c s).state :=
  edit_kept fun good => s.stage_kept a _ fun _ staged => SetCycle.onto_length good staged

theorem planSetChannelOwner_kept (a : Leave) (c : SetPair) (s : State) : s.Kept a (planSetChannelOwner c s).state := by
  refine edit_kept fun _ => ?_
  split
  · exact s.stage_kept a _ fun _ staged => staged
  · exact .refl a s

theorem planSetInputOwner_kept (a : Leave) (c : SetPair) (s : State) : s.Kept a (planSetInputOwner c s).state := by
  refine edit_kept fun _ => ?_
  split
  · exact s.stage_kept a _ fun _ staged => staged
  · exact .refl a s

theorem entryAddOwner_kept (a : Leave) (raw : RawEntry) (s : State) : s.Kept a (entryAddOwner raw s).state := by
  unfold entryAddOwner
  split
  · exact .refl a s
  · split
    · exact .refl a s
    · split
      · exact .refl a s
      · split
        · exact .refl a s
        · exact s.stage_kept a _ fun _ staged => staged

theorem windowAddOwner_kept (a : Leave) (raw : RawWindow) (s : State) : s.Kept a (windowAddOwner raw s).state := by
  unfold windowAddOwner
  split
  · exact .refl a s
  · split
    · exact .refl a s
    · split
      · exact .refl a s
      · split
        · exact .refl a s
        · exact s.stage_kept a _ fun _ staged => staged

theorem entryRemoveOwner_kept (a : Leave) (id : Nat) (s : State) : s.Kept a (entryRemoveOwner id s).state := by
  refine edit_kept fun _ => ?_
  split
  · exact s.stage_kept a _ fun _ staged => staged
  · exact .refl a s

theorem windowRemoveOwner_kept (a : Leave) (id : Nat) (s : State) : s.Kept a (windowRemoveOwner id s).state := by
  refine edit_kept fun _ => ?_
  split
  · exact s.stage_kept a _ fun _ staged => staged
  · exact .refl a s

theorem planClearOwner_kept (a : Leave) (p : Unit) (s : State) : s.Kept a (planClearOwner p s).state :=
  edit_kept fun _ => s.stage_kept a _ fun _ _ => by decide

theorem planCopyActiveOwner_kept (a : Leave) (p : Unit) (s : State) : s.Kept a (planCopyActiveOwner p s).state :=
  edit_kept fun _ => s.stage_kept a _ fun active _ => active

/-- The last commit outcome is no part of what is kept. -/
theorem State.setOutcome_kept (a : Leave) (s : State) (o : CommitOutcome) : s.Kept a (s.setOutcome o) :=
  .of_sameRun .of_same (.of_staged rfl .inl fun _ staged => staged)

/-- A commit waits in a run and swaps otherwise (R46). -/
theorem State.commit_kept (a : Leave) (s : State) : s.Kept a s.commit.state := by
  have expanded : s.Kept a { s with plans := { s.plans with stagedTimeline := s.staged.expand } } :=
    .of_sameRun .of_same (.of_staged rfl .inl fun _ staged => staged)
  unfold State.commit
  dsimp only
  split
  · rename_i running
    exact .of_sameRun .of_same (.of_staged rfl (fun _ => .inr running) fun _ staged => staged)
  · rename_i stands
    exact expanded.trans ((State.swap_kept a _ (by simpa using stands)).trans (State.setOutcome_kept a _ _))

theorem planCommitOwner_kept (a : Leave) (p : Unit) (s : State) : s.Kept a (planCommitOwner p s).state := by
  unfold planCommitOwner
  split
  · exact .refl a s
  · split
    · exact s.setOutcome_kept a _
    · exact (s.setOutcome_kept a _).trans (State.commit_kept a _)

theorem planAbandonOwner_kept (a : Leave) (p : Unit) (s : State) : s.Kept a (planAbandonOwner p s).state := by
  unfold planAbandonOwner
  split
  · exact .of_sameRun .of_same (.of_staged rfl nofun fun _ staged => staged)
  all_goals exact .refl a s

theorem profileLoadOwner_kept (a : Leave) (n : Nat) (s : State) : s.Kept a (profileLoadOwner n s).state := by
  have loads (e : DirEntry) : s.Kept a (s.loadEntry e).state := by
    unfold State.loadEntry
    split
    · rename_i read
      exact s.stage_kept a _ fun _ _ => State.readProfile_length read
    · exact .refl a s
  unfold profileLoadOwner
  split
  · exact .refl a s
  · split
    · exact .refl a s
    · split
      · exact .refl a s
      · split
        · exact .refl a s
        · exact loads _

/-! ## Channels -/

/-- One channel goes over safely. -/
theorem State.onChannel_kept (a : Leave) (s : State) (i : Fin 8) (f : Channel → Channel)
    (h : (s.channels.get i).safeTo s.stopAsserted (f (s.channels.get i))) : s.Kept a (s.onChannel i f) :=
  .of_sameRun (s.onChannel_safe i f h) (.of_same rfl)

/-- A claim on a HELD, idle channel is taken with the STOP line released alone (R66). -/
theorem heldIdle_kept {a : Leave} {s taken : State} {i : Fin 8}
    (h : s.stopAsserted = false → (s.channels.get i).hold = .held → s.Kept a taken) :
    s.Kept a (heldIdle s i taken).state := by
  unfold heldIdle
  split
  · exact .refl a s
  · rename_i released
    split
    · exact .refl a s
    · rename_i held
      split
      · exact .refl a s
      · refine h (by simpa using released) ?_
        cases hold : (s.channels.get i).hold with
        | held => rfl
        | free => exact absurd hold held

theorem channelHoldOwner_kept (a : Leave) (c : Nat) (s : State) : s.Kept a (channelHoldOwner c s).state := by
  unfold channelHoldOwner
  split
  · exact .refl a s
  · split
    · exact .refl a s
    · exact s.onChannel_kept a _ _ (Channel.taken_safe _ _)

theorem channelSetOwner_kept (a : Leave) (f : Nat × Nat) (s : State) : s.Kept a (channelSetOwner f s).state := by
  unfold channelSetOwner
  split
  · exact .refl a s
  · exact .refl a s
  · refine heldIdle_kept fun released _ => s.onChannel_kept a _ _ ?_
    rw [released]
    exact Channel.safeTo_level _ _

theorem channelPulseOwner_kept (a : Leave) (f : Nat × Nat) (s : State) : s.Kept a (channelPulseOwner f s).state := by
  unfold channelPulseOwner
  split
  · exact .refl a s
  · split
    · exact .refl a s
    · refine heldIdle_kept fun released held => s.onChannel_kept a _ _ ?_
      rw [released]
      exact Channel.pulsed_safe _ _ held

theorem channelReleaseOwner_kept (a : Leave) (c : Nat) (s : State) : s.Kept a (channelReleaseOwner c s).state := by
  unfold channelReleaseOwner
  split
  · exact .refl a s
  · exact s.onChannel_kept a _ _ (Channel.released_safe _ _)

/-! ## The session -/

theorem helloOwner_kept {a : Leave} (leave : a.opens) (h : Hello) (s : State) : s.Kept a (helloOwner h s).state := by
  unfold helloOwner
  split
  · exact .refl a s
  · split
    · exact .refl a s
    · exact ⟨id, id, id, id, fun h => absurd rfl h, fun h => absurd rfl h, fun _ _ => leave⟩

/-! ## Requests that report, and those of the captures, the store and the counters -/

theorem planReadOwner_kept (a : Leave) (n : Nat) (s : State) : s.Kept a (planReadOwner n s).state := by
  unfold planReadOwner
  split <;> exact .refl a s

theorem entryListOwner_kept (a : Leave) (f : Nat × Nat) (s : State) : s.Kept a (entryListOwner f s).state := by
  unfold entryListOwner
  (repeat' split) <;> exact .refl a s

theorem windowListOwner_kept (a : Leave) (f : Nat × Nat) (s : State) : s.Kept a (windowListOwner f s).state := by
  unfold windowListOwner
  (repeat' split) <;> exact .refl a s

theorem planCheckOwner_kept (a : Leave) (p : Unit) (s : State) : s.Kept a (planCheckOwner p s).state := by
  unfold planCheckOwner
  split <;> exact .refl a s

theorem captureReadOwner_kept (a : Leave) (n : Nat) (s : State) : s.Kept a (captureReadOwner n s).state := by
  unfold captureReadOwner
  split
  · exact .of_parts
  · exact .refl a s

theorem captureWatermarkOwner_kept (a : Leave) (n : Nat) (s : State) : s.Kept a (captureWatermarkOwner n s).state := by
  unfold captureWatermarkOwner
  split
  · exact .of_parts
  · exact .refl a s

/-- What the order of examination of a request that writes keeps (R106). -/
theorem writing_kept {a : Leave} {s : State} {bad : Option Nat} {rest : Answer} (h : s.Kept a rest.state) :
    s.Kept a (writing s bad rest).state := by
  unfold writing
  split
  · exact .refl a s
  · split
    · exact .refl a s
    · split
      · exact .refl a s
      · exact h

theorem profileSaveOwner_kept (a : Leave) (f : Nat × List Byte) (s : State) : s.Kept a (profileSaveOwner f s).state := by
  refine writing_kept ?_
  split
  · exact .of_parts
  · exact .refl a s

theorem profileDeleteOwner_kept (a : Leave) (n : Nat) (s : State) : s.Kept a (profileDeleteOwner n s).state := by
  unfold profileDeleteOwner
  split
  · exact .refl a s
  · refine writing_kept ?_
    split
    · exact .of_parts
    · exact .refl a s

theorem bootSetOwner_kept (a : Leave) (f : Nat × Nat) (s : State) : s.Kept a (bootSetOwner f s).state := by
  have selects (selected : Option (Fin 8)) (auto : Bool) : s.Kept a (s.selectBoot selected auto).state := by
    unfold State.selectBoot
    exact .of_parts
  unfold bootSetOwner
  split
  · exact .refl a s
  · refine writing_kept ?_
    split
    · exact selects _ _
    · split
      · exact selects _ _
      · exact .refl a s

theorem storeFormatOwner_kept (a : Leave) (p : Unit) (s : State) : s.Kept a (storeFormatOwner p s).state := by
  unfold storeFormatOwner
  split
  · exact .refl a s
  · split <;> exact .of_parts

theorem restartOwner_kept (a : Leave) (p : Unit) (s : State) : s.Kept a (restartOwner p s).state := by
  unfold restartOwner
  split
  · exact .refl a s
  · exact .of_parts (session := rfl)

theorem countersReadOwner_kept (a : Leave) (n : Nat) (s : State) : s.Kept a (countersReadOwner n s).state := by
  unfold countersReadOwner
  split <;> exact .refl a s

theorem countersClearOwner_kept (a : Leave) (n : Nat) (s : State) : s.Kept a (countersClearOwner n s).state := by
  unfold countersClearOwner
  split
  · exact .refl a s
  · exact .of_parts

end Sys2Proof.Machine

/-! What every command does: a reset, or a step that keeps the invariants and does only what the command has leave for. -/

namespace Sys2Proof.Machine

/-! ## The link's part of the session -/

@[simp] theorem State.linkActivity_isOpen (s : State) : s.linkActivity.session.isOpen = s.session.isOpen := by
  unfold State.linkActivity
  split <;> rfl

@[simp] theorem State.offer_isOpen (s : State) (f : Frame) : (s.offer f).session.isOpen = s.session.isOpen := by
  unfold State.offer
  split <;> rfl

@[simp] theorem State.goodFrame_isOpen (s : State) (f : Frame) : (s.goodFrame f).session.isOpen = s.session.isOpen := by
  unfold State.goodFrame
  dsimp only
  split <;> simp

@[simp] theorem State.linkEvent_isOpen (s : State) (e : LinkEvent) :
    (s.linkEvent e).session.isOpen = s.session.isOpen := by
  cases e <;> simp [State.linkEvent]

@[simp] theorem State.rescanned_isOpen (s : State) (found : List LinkEvent × Asm) :
    (s.rescanned found).session.isOpen = s.session.isOpen :=
  foldl_keeps (fun t : State => t.session.isOpen) State.linkEvent (fun t e => t.linkEvent_isOpen e) found.1 s

@[simp] theorem State.checkFrame_isOpen (s : State) : s.checkFrame.session.isOpen = s.session.isOpen := by
  unfold State.checkFrame
  (repeat' split) <;> simp

@[simp] theorem State.checkIfComplete_isOpen (s : State) : s.checkIfComplete.session.isOpen = s.session.isOpen := by
  unfold State.checkIfComplete
  split <;> simp

@[simp] theorem State.receive_isOpen (s : State) (b : Byte) : (s.receive b).session.isOpen = s.session.isOpen := by
  unfold State.receive
  dsimp only
  split <;> simp

@[simp] theorem State.frameArrives_isOpen (s : State) (bytes : List Byte) :
    (s.frameArrives bytes).session.isOpen = s.session.isOpen := by
  unfold State.frameArrives
  split
  · simp
  · rw [State.checkIfComplete_isOpen]
    exact foldl_keeps (fun t : State => t.session.isOpen) State.receive (fun t b => t.receive_isOpen b) _ s

@[simp] theorem State.characterArrives_isOpen (s : State) (byte : Byte) (lineError : Bool) :
    (s.characterArrives byte lineError).session.isOpen = s.session.isOpen := by
  unfold State.characterArrives
  split <;> simp

@[simp] theorem State.gapExpired_isOpen (s : State) : s.gapExpired.session.isOpen = s.session.isOpen := by
  simp [State.gapExpired]

/-! ## Commands -/

/-- What a command has leave for: RUN, an input edge, the end of a cycle and of the scan may start a cycle (R2), the ends of
media steps change the media (R100), HELLO opens a session (R153). -/
def leaveOf : Instr → Leave
  | .run _ => ⟨True, False, False⟩
  | .inputEdge _ _ => ⟨True, False, False⟩
  | .endOfCycle => ⟨True, False, False⟩
  | .storeScanEnd => ⟨True, False, False⟩
  | .programStepEnd _ => ⟨False, True, False⟩
  | .eraseEnd _ => ⟨False, True, False⟩
  | .hello _ => ⟨False, False, True⟩
  | _ => .none

/-- The commands that can reset the part, by their causes (R123, R124). -/
def mayReset : Instr → ResetCause → Prop
  | .powerUp _, .power => True
  | .powerLoss _, .power => True
  | .resetLine _, .resetLine => True
  | .transmitFrameEnd, .restart => True
  | _, _ => False

/-- One state follows another by a reset that a command can make. -/
def ResetBy (c : Instr) (s t : State) : Prop :=
  ∃ cause torn powered, mayReset c cause ∧ t = s.resetBy cause torn powered

/-- The end of a media step touches the store, the media and the notices alone (R100, R106). -/
theorem State.Kept.of_mediaStep {a : Leave} {s t : State} (leave : a.writes)
    (parts : t.seq = s.seq ∧ t.plans = s.plans ∧ t.channels = s.channels ∧ t.filters = s.filters ∧
      t.startup = s.startup ∧ t.session = s.session) : s.Kept a t := by
  obtain ⟨seq, plans, channels, filters, startup, session⟩ := parts
  have rest : s.Kept a { t with media := s.media } :=
    .of_parts seq plans channels filters (fun h => startup ▸ h) rfl (congrArg Session.isOpen session)
  exact ⟨rest.sequencer, rest.drive, rest.stopSafe, rest.idle, rest.cycle, fun _ => leave, rest.session⟩

theorem execProgramStepEnd_kept {a : Leave} {faults : List Host.Cell} {s t : State} (leave : a.writes)
    (h : execProgramStepEnd faults s = .next t) : s.Kept a t := by
  have ends (job : Job) (step : MediaStep) (rest : List MediaStep) (bank : Bank) (offset : Nat) (data : List Byte) :
      s.Kept a (s.programEnds faults job step rest bank offset data).arbitrate := .of_mediaStep leave (by simp)
  unfold execProgramStepEnd at h
  split at h
  · cases h; exact .refl a s
  · split at h
    · cases h; exact .refl a s
    · split at h
      · cases h; exact .refl a s
      · split at h
        · cases h; exact .refl a s
        · split at h <;> cases h
          exact ends _ _ _ _ _ _

theorem execEraseEnd_kept {a : Leave} {faults : List Host.Cell} {s t : State} (leave : a.writes)
    (h : execEraseEnd faults s = .next t) : s.Kept a t := by
  have ends (job : Job) (step : MediaStep) (rest : List MediaStep) (bank : Bank) :
      s.Kept a (s.eraseEnds faults job step rest bank).arbitrate := .of_mediaStep leave (by simp)
  cases h
  split
  · split
    · exact .refl a s
    · split
      · exact .refl a s
      · split
        · exact ends _ _ _ _
        · exact .refl a s
  · exact .refl a s

/-- The arbiter's choice is no part of what is kept. -/
theorem State.Kept.arbitrated {a : Leave} {s t : State} (h : s.Kept a t) : s.Kept a t.arbitrate := h.trans .of_parts

/-- A happening that takes effect only when it is due keeps what its effect keeps. -/
theorem kept_of_due {a : Leave} {s effect t : State} {due : Bool}
    (h : (.next (if due then effect else s) : Host.Outcome State Fault Refusal) = .next t)
    (kept : due = true → s.Kept a effect) : s.Kept a t := by
  cases h
  split
  · rename_i due
    exact kept due
  · exact .refl a s

/-- The end of a frame resets the part behind a RESTART's reply, and does nothing of the kind otherwise (R124, R142). -/
theorem State.frameLeft_cases (a : Leave) (s : State) (owner : TxOwner) :
    s.frameLeft owner = s.resetBy .restart [] true ∨ s.Kept a (s.frameLeft owner) := by
  cases owner with
  | notice number =>
    unfold State.frameLeft
    exact .inr .of_parts
  | reply code status =>
    have counted : s.Kept a (s.countLink fun c => { c with repliesSent := bump c.repliesSent }) := .of_parts
    unfold State.frameLeft State.replyLeft
    dsimp only
    split
    · have closed := counted.trans (State.closeSession_kept a _)
      exact .inr ⟨closed.sequencer, closed.drive, closed.stopSafe, closed.idle, closed.cycle, closed.media, closed.session⟩
    · split
      · exact .inl rfl
      · exact .inr counted

/-- A part just reset has no frame to send. -/
theorem State.resetBy_sends (s : State) (cause : ResetCause) (torn : List Host.Cell) (powered : Bool) :
    (s.resetBy cause torn powered).txIdle.arbitrate = s.resetBy cause torn powered := rfl

theorem execTransmitFrameEnd_cases {a : Leave} {s t : State} (h : execTransmitFrameEnd s = .next t) :
    t = s.resetBy .restart [] true ∨ s.Kept a t := by
  unfold execTransmitFrameEnd at h
  cases h
  split
  · split
    · rename_i owner _ _ _
      rcases s.frameLeft_cases a owner with reset | kept
      · rw [reset, State.resetBy_sends]
        exact .inl rfl
      · exact .inr (kept.trans (State.Kept.arbitrated .of_parts))
    · exact .inr (.refl a s)
  · exact .inr (.refl a s)

/-! ## Happenings of the cycle, the lines and the store, by their commands -/

theorem execInputEdge_kept {a : Leave} {i : Fin 4} {d : Slope} {s t : State} (leave : a.starts)
    (h : execInputEdge i d s = .next t) : s.Kept a t :=
  kept_of_due h fun _ => (s.inputEdges_kept leave i d).arbitrated

theorem execEndOfCycle_kept {a : Leave} {s t : State} (leave : a.starts) (h : execEndOfCycle s = .next t) : s.Kept a t :=
  kept_of_due h fun _ => (s.endCycle_kept leave).arbitrated

theorem execStopReleased_kept {a : Leave} {s t : State} (h : execStopReleased s = .next t) : s.Kept a t := by
  refine kept_of_due h fun due => s.settleStop_kept a ?_
  simp only [State.stopDue, Bool.and_eq_true, decide_eq_true_eq] at due
  obtain ⟨-, -, rise⟩ := due
  unfold Filter.slope at rise
  split at rise
  · rename_i low
    exact decide_eq_true low
  · cases rise

theorem execTimelineEdge_kept {a : Leave} {s t : State} (h : execTimelineEdge s = .next t) : s.Kept a t := by
  cases h
  split
  · split
    · exact .of_sameRun (s.takeEdge_safe _) (.of_same (by simp)) (by simp [Sequencer.sameRun])
    · exact .refl a s
  · exact .refl a s

theorem execWaitTimerExpiry_kept {a : Leave} {s t : State} (h : execWaitTimerExpiry s = .next t) : s.Kept a t := by
  refine kept_of_due h fun due => (s.starves_kept a ?_).arbitrated
  simp only [State.starveDue, Bool.and_eq_true, decide_eq_true_eq] at due
  obtain ⟨-, waits | waits, -⟩ := due <;> rw [waits] <;> rfl

theorem execManualPulseExpiry_kept {a : Leave} {c : Fin 8} {s t : State} (h : execManualPulseExpiry c s = .next t) :
    s.Kept a t :=
  kept_of_due h fun _ => s.onChannel_kept a c _ (Channel.stopped_safe _ _)

theorem execStoreScanEnd_kept {a : Leave} {s t : State} (leave : a.starts) (h : execStoreScanEnd s = .next t) :
    s.Kept a t := by
  cases h
  split
  · rename_i result
    unfold State.scanResult at result
    split at result
    · rename_i scanning
      exact s.scanEnds_kept leave _ _ scanning.2
    · cases result
  · exact .refl a s

theorem execRawLineChange_kept {a : Leave} {line : Line} {level : Wire} {s t : State}
    (h : execRawLineChange line level s = .next t) : s.Kept a t := by
  cases h
  cases line with
  | input i => exact .of_sameRun ⟨rfl, fun _ => .refl _ _⟩ (.of_same rfl)
  | stop =>
    have level' : (s.filters.stop.rawChange s.sampling level).level = s.filters.stop.level := by
      unfold Filter.rawChange
      split <;> rfl
    exact .of_sameRun ⟨congrArg (fun l : Wire => decide (l = .low)) level', fun _ => .refl _ _⟩ (.of_same rfl)
      (.refl _) id rfl rfl

/-- Every command resets the part, or keeps the invariants and does only what it has leave for. -/
theorem exec_cases {c : Instr} {s t : State} (h : exec c s = .next t) : ResetBy c s t ∨ s.Kept (leaveOf c) t := by
  cases c
  case run q => exact .inr (requestStep_kept h fun n u ok => runOwner_kept trivial n u (ok.resolve_right (by decide)))
  case finish q => exact .inr (requestStep_kept h fun p u _ => finishOwner_kept _ p u)
  case halt q => exact .inr (requestStep_kept h fun p u _ => haltOwner_kept _ p u)
  case planSetCycle q => exact .inr (requestStep_kept h fun p u _ => planSetCycleOwner_kept _ p u)
  case planSetChannel q => exact .inr (requestStep_kept h fun p u _ => planSetChannelOwner_kept _ p u)
  case planSetInput q => exact .inr (requestStep_kept h fun p u _ => planSetInputOwner_kept _ p u)
  case entryAdd q => exact .inr (requestStep_kept h fun p u _ => entryAddOwner_kept _ p u)
  case entryRemove q => exact .inr (requestStep_kept h fun p u _ => entryRemoveOwner_kept _ p u)
  case windowAdd q => exact .inr (requestStep_kept h fun p u _ => windowAddOwner_kept _ p u)
  case windowRemove q => exact .inr (requestStep_kept h fun p u _ => windowRemoveOwner_kept _ p u)
  case planClear q => exact .inr (requestStep_kept h fun p u _ => planClearOwner_kept _ p u)
  case planCopyActive q => exact .inr (requestStep_kept h fun p u _ => planCopyActiveOwner_kept _ p u)
  case planRead q => exact .inr (requestStep_kept h fun p u _ => planReadOwner_kept _ p u)
  case entryList q => exact .inr (requestStep_kept h fun p u _ => entryListOwner_kept _ p u)
  case windowList q => exact .inr (requestStep_kept h fun p u _ => windowListOwner_kept _ p u)
  case planCheck q => exact .inr (requestStep_kept h fun p u _ => planCheckOwner_kept _ p u)
  case planCommit q => exact .inr (requestStep_kept h fun p u _ => planCommitOwner_kept _ p u)
  case planAbandon q => exact .inr (requestStep_kept h fun p u _ => planAbandonOwner_kept _ p u)
  case channelHold q => exact .inr (requestStep_kept h fun p u _ => channelHoldOwner_kept _ p u)
  case channelSet q => exact .inr (requestStep_kept h fun p u _ => channelSetOwner_kept _ p u)
  case channelPulse q => exact .inr (requestStep_kept h fun p u _ => channelPulseOwner_kept _ p u)
  case channelRelease q => exact .inr (requestStep_kept h fun p u _ => channelReleaseOwner_kept _ p u)
  case captureRead q => exact .inr (requestStep_kept h fun p u _ => captureReadOwner_kept _ p u)
  case captureFlush q => exact .inr (requestStep_kept h fun _ _ _ => .of_parts rfl rfl rfl rfl id rfl rfl)
  case captureWatermark q => exact .inr (requestStep_kept h fun p u _ => captureWatermarkOwner_kept _ p u)
  case profileSave q => exact .inr (requestStep_kept h fun p u _ => profileSaveOwner_kept _ p u)
  case profileDelete q => exact .inr (requestStep_kept h fun p u _ => profileDeleteOwner_kept _ p u)
  case bootSet q => exact .inr (requestStep_kept h fun p u _ => bootSetOwner_kept _ p u)
  case storeFormat q => exact .inr (requestStep_kept h fun p u _ => storeFormatOwner_kept _ p u)
  case profileLoad q => exact .inr (requestStep_kept h fun p u _ => profileLoadOwner_kept _ p u)
  case profileList q => exact .inr (requestStep_kept h fun _ u _ => .refl _ u)
  case storeStatus q => exact .inr (requestStep_kept h fun _ u _ => .refl _ u)
  case restart q => exact .inr (requestStep_kept h fun p u _ => restartOwner_kept _ p u)
  case hello q => exact .inr (requestStep_kept h fun p u _ => helloOwner_kept trivial p u)
  case goodbye q => exact .inr (requestStep_kept h fun _ _ _ => .of_parts rfl rfl rfl rfl id rfl rfl)
  case status q => exact .inr (requestStep_kept h fun _ u _ => .refl _ u)
  case countersRead q => exact .inr (requestStep_kept h fun p u _ => countersReadOwner_kept _ p u)
  case countersClear q => exact .inr (requestStep_kept h fun p u _ => countersClearOwner_kept _ p u)
  case ack number => cases h; exact .inr .of_parts
  case frameReceived bytes => exact .inr (kept_of_due h fun _ => .of_parts)
  case gapTimerExpiry => exact .inr (kept_of_due h fun _ => .of_parts)
  case transmitFrameEnd =>
    exact (execTransmitFrameEnd_cases h).imp (fun reset => ⟨.restart, [], true, trivial, reset⟩) id
  case lapse => exact .inr (kept_of_due h fun _ => (s.lapses_kept _).arbitrated)
  case resendTimerExpiry number => exact .inr (kept_of_due h fun _ => .of_parts)
  case inputEdge i d => exact .inr (execInputEdge_kept trivial h)
  case stopAsserted => exact .inr (kept_of_due h fun _ => (s.stops_kept _).arbitrated)
  case stopReleased => exact .inr (execStopReleased_kept h)
  case timelineEdge => exact .inr (execTimelineEdge_kept h)
  case endOfCycle => exact .inr (execEndOfCycle_kept trivial h)
  case windowOpen id => exact .inr (kept_of_due h fun _ => .of_parts)
  case windowClose => exact .inr (kept_of_due h fun _ => (s.closeAndReport_kept _ _).arbitrated)
  case waitTimerExpiry => exact .inr (execWaitTimerExpiry_kept h)
  case manualPulseExpiry c => exact .inr (execManualPulseExpiry_kept h)
  case programStepEnd faults => exact .inr (execProgramStepEnd_kept trivial h)
  case eraseEnd faults => exact .inr (execEraseEnd_kept trivial h)
  case storeScanEnd => exact .inr (execStoreScanEnd_kept trivial h)
  case powerUp torn => cases h; exact .inl ⟨.power, torn, true, trivial, rfl⟩
  case resetLine torn =>
    cases h
    split
    · exact .inl ⟨.resetLine, torn, true, trivial, rfl⟩
    · exact .inr (.refl _ s)
  case resetEnd rate1 rate0 =>
    cases h
    split
    · rename_i inReset
      exact .inr (s.begins_kept _ rate1 rate0 inReset.2)
    · exact .inr (.refl _ s)
  case characterReceived byte lineError => exact .inr (kept_of_due h fun _ => .of_parts)
  case rawLineChange line level => exact .inr (execRawLineChange_kept h)
  case powerLoss torn =>
    cases h
    split
    · exact .inl ⟨.power, torn, false, trivial, rfl⟩
    · exact .inr (.refl _ s)

end Sys2Proof.Machine

/-! The part's own clock: what a step without a waiting command can do, and what every step keeps. -/

namespace Sys2Proof.Machine

/-! ## Happenings that are due -/

@[simp] theorem mem_dueIf {d : Due} {b : Bool} {c : Instr} : d ∈ dueIf b c ↔ b = true ∧ d = .command c := by
  unfold dueIf
  split <;> simp_all

@[simp] theorem State.frameDue_command (s : State) (c : Instr) : Due.command c ∉ s.frameDue := by
  unfold State.frameDue
  (repeat' split) <;> simp

@[simp] theorem State.frameDue_runStage (s : State) : Due.runStage ∉ s.frameDue := by
  unfold State.frameDue
  (repeat' split) <;> simp

/-- The commands whose happenings fall due in the part itself. -/
def arises : Instr → Bool
  | .timelineEdge => true
  | .endOfCycle => true
  | .windowOpen _ => true
  | .windowClose => true
  | .waitTimerExpiry => true
  | .inputEdge _ _ => true
  | .stopAsserted => true
  | .stopReleased => true
  | .manualPulseExpiry _ => true
  | .frameReceived _ => true
  | .gapTimerExpiry => true
  | .lapse => true
  | .resendTimerExpiry _ => true
  | _ => false

theorem State.dueAll_arises {s : State} {c : Instr} (h : Due.command c ∈ s.dueAll) : arises c = true := by
  have stage : Due.command c ∉ if s.runStageDue then [Due.runStage] else [] := by split <;> simp
  simp only [State.dueAll, State.cycleDue, State.linesDue, State.linkDue, State.opensDue, List.mem_append,
    List.mem_flatMap, mem_dueIf, State.frameDue_command, Due.command.injEq, or_false, stage] at h
  rcases h with
    (((((⟨-, rfl⟩ | ⟨-, rfl⟩) | ⟨_, -, -, rfl⟩) | ⟨-, rfl⟩) | ⟨-, rfl⟩) |
      ((⟨_, -, ⟨-, rfl⟩ | ⟨-, rfl⟩⟩ | ⟨-, rfl⟩) | ⟨-, rfl⟩) | ⟨_, -, -, rfl⟩) |
      ((⟨-, rfl⟩ | ⟨-, rfl⟩) | ⟨-, rfl⟩) | ⟨_, -, -, rfl⟩ <;> rfl

theorem State.dueAll_runStage {s : State} (h : Due.runStage ∈ s.dueAll) : s.startup.stage = .booting := by
  simp only [State.dueAll, State.cycleDue, State.linesDue, State.linkDue, State.opensDue, List.mem_append,
    List.mem_flatMap, mem_dueIf, State.frameDue_runStage, reduceCtorEq, and_false, or_false, exists_false,
    false_or] at h
  split at h
  · rename_i due
    unfold State.runStageDue at due
    simp only [Bool.and_eq_true, decide_eq_true_eq] at due
    exact due.1
  · simp at h

/-- What falls due by itself resets nothing, writes no media and opens no session, and of it only an input edge and the end
of a cycle may start one. -/
theorem arises_leave {c : Instr} (h : arises c = true) :
    (∀ cause, ¬ mayReset c cause) ∧
      (leaveOf c).within ⟨(∃ i d, c = .inputEdge i d) ∨ c = .endOfCycle, False, False⟩ := by
  cases c <;> simp_all [arises, mayReset, leaveOf, Leave.within, Leave.none]

/-! ## The waiting frame (R147) -/

/-- A frame carries a request with a code: it is no acknowledgement. -/
def Frame.requests (f : Frame) (code : Byte) : Prop := f.body[0]? ≠ some 0x04#8 ∧ f.body[2]? = some code

/-- What taking a waiting frame has leave for: a RUN starts a cycle, a HELLO opens a session. -/
def Frame.leave (f : Frame) : Leave := ⟨f.requests 1, False, f.requests 34⟩

/-- Of the requests only RUN may start a cycle and only HELLO opens a session, and none resets the part by itself. -/
theorem requestOf_leave {code : Nat} {q : Req} {c : Instr} (h : requestOf code q = some c) :
    (∀ cause, ¬ mayReset c cause) ∧ (leaveOf c).within ⟨code = 1, False, code = 34⟩ := by
  unfold requestOf at h
  split at h <;> cases h <;> simp [mayReset, leaveOf, Leave.within, Leave.none]

theorem State.takeFrame_kept {s t : State} {f : Frame} (h : s.takeFrame f = .next t) : s.Kept f.leave t := by
  unfold State.takeFrame at h
  split at h
  · rename_i kind tag code params body
    split at h
    · cases h
      exact .of_parts
    · rename_i request
      split at h
      · rename_i c known
        obtain ⟨noReset, within⟩ := requestOf_leave known
        rcases exec_cases h with ⟨cause, _, _, reset, -⟩ | kept
        · exact absurd reset (noReset cause)
        · have carries (n : Byte) (e : code.toNat = n.toNat) : f.requests n := by
            unfold Frame.requests
            rw [body]
            exact ⟨by simpa using request, by simpa using BitVec.eq_of_toNat_eq e⟩
          exact kept.mono ⟨fun h => carries 1 (within.1 h), within.2.1, fun h => carries 34 (within.2.2 h)⟩
      · cases h
        exact s.takeRequest_kept _ _ _ fun u _ => .refl _ u
  · cases h
    exact .of_parts

/-! ## A step with no command waiting -/

/-- What a step with no command waiting has leave for, by what is due. -/
def State.idleLeave (s : State) : Leave where
  starts :=
    (∃ f, .takeFrame f ∈ s.dueAll ∧ f.requests 1) ∨ (∃ i d, .command (.inputEdge i d) ∈ s.dueAll) ∨
      .command .endOfCycle ∈ s.dueAll ∨ .runStage ∈ s.dueAll
  writes := False
  opens := ∃ f, .takeFrame f ∈ s.dueAll ∧ f.requests 34

/-- A happening that is due in one state is taken in another that shows the same stage. -/
theorem State.takeDue_kept {s u t : State} {d : Due} (due : d ∈ s.dueAll) (stage : u.startup.stage = s.startup.stage)
    (h : u.takeDue d = .next t) : u.Kept s.idleLeave t := by
  cases d with
  | command c =>
    obtain ⟨noReset, within⟩ := arises_leave (State.dueAll_arises due)
    rcases exec_cases h with ⟨cause, _, _, reset, -⟩ | kept
    · exact absurd reset (noReset cause)
    · refine kept.mono ⟨fun h => ?_, within.2.1, fun h => (within.2.2 h).elim⟩
      rcases within.1 h with ⟨i, d, rfl⟩ | rfl
      · exact .inr (.inl ⟨i, d, due⟩)
      · exact .inr (.inr (.inl due))
  | takeFrame f =>
    exact (State.takeFrame_kept h).mono ⟨fun h => .inl ⟨f, due, h⟩, id, fun h => ⟨f, due, h⟩⟩
  | runStage =>
    cases h
    exact u.runStage_kept (.inr (.inr (.inr due))) (stage.trans (State.dueAll_runStage due))

/-- Of several happenings that are due one is taken, by a free choice (entry 2). -/
theorem State.idle_choice {s : State} {d e : Due} {rest : List Due} (live : s.live = true)
    (due : s.dueAll = d :: e :: rest) :
    ∃ x ∈ s.dueAll, s.idle = ({ s with choices := s.choices + 1 } : State).takeDue x := by
  have bound : Config.pick s.choices % (d :: e :: rest).length < (d :: e :: rest).length :=
    Nat.mod_lt _ (by simp)
  refine ⟨(d :: e :: rest).getD (Config.pick s.choices % (d :: e :: rest).length) d, ?_, ?_⟩
  · rw [due, List.getD_eq_getElem _ _ bound]
    exact List.getElem_mem bound
  · unfold State.idle
    rw [if_pos live, due]

/-- What a step with no command waiting keeps. -/
theorem State.idle_kept {s t : State} (h : s.idle = .next t) : s.Kept s.idleLeave t := by
  cases live : s.live with
  | false =>
    rw [State.idle, live] at h
    cases h
    exact .refl _ s
  | true =>
    match due : s.dueAll with
    | [] =>
      rw [State.idle, if_pos live, due] at h
      cases h
      exact s.tick_kept _
    | [d] =>
      rw [State.idle, if_pos live, due] at h
      exact State.takeDue_kept (by simp [due]) rfl h
    | d :: e :: rest =>
      obtain ⟨x, mem, choice⟩ := State.idle_choice live due
      rw [choice] at h
      exact State.Kept.trans (t := { s with choices := s.choices + 1 }) (.of_parts rfl rfl rfl rfl id rfl rfl)
        (State.takeDue_kept mem rfl h)

/-- Every step resets the part or keeps the invariants (R1, R123). -/
theorem step_cases {s t : State} (h : step s = .next t) :
    (∃ u cause torn powered, t = State.resetBy u cause torn powered) ∨ ∃ a, s.Kept a t := by
  unfold step at h
  split at h
  · exact .inr ⟨_, State.idle_kept h⟩
  · rename_i c rest _
    rcases exec_cases h with ⟨cause, torn, powered, -, reset⟩ | kept
    · exact .inl ⟨_, cause, torn, powered, reset⟩
    · exact .inr ⟨_, State.Kept.trans (t := { s with pending := rest }) (.of_parts rfl rfl rfl rfl id rfl rfl) kept⟩

/-- Settles O55: a reset gives the invariant, and every other step keeps it. -/
theorem everyStepKeepsTheSequencer : Obligations.EveryStepKeepsTheSequencer := by
  intro s t ok h
  rcases step_cases h with ⟨u, cause, torn, powered, rfl⟩ | ⟨a, kept⟩
  · exact (u.resetBy_holds cause torn powered).1
  · exact kept.sequencer ok

/-- Settles O57: a reset leaves every channel safe and STOP released, and every other step keeps both invariants. -/
theorem everyStepKeepsTheOutputsSafe : Obligations.EveryStepKeepsTheOutputsSafe := by
  refine ⟨fun s t ok h => ?_, fun s t ok h => ?_⟩ <;>
    rcases step_cases h with ⟨u, cause, torn, powered, rfl⟩ | ⟨a, kept⟩
  · exact (u.resetBy_holds cause torn powered).2.1
  · exact kept.drive ok
  · exact (u.resetBy_holds cause torn powered).2.2.1
  · exact kept.stopSafe ok

/-! ## What only some commands do -/

theorem leaveOf_starts {c : Instr} (h : (leaveOf c).starts) :
    (∃ q, c = .run q) ∨ (∃ i d, c = .inputEdge i d) ∨ c = .endOfCycle ∨ c = .storeScanEnd := by
  cases c <;> simp_all [leaveOf, Leave.none]

theorem leaveOf_writes {c : Instr} (h : (leaveOf c).writes) :
    (∃ f, c = .programStepEnd f) ∨ (∃ f, c = .eraseEnd f) := by
  cases c <;> simp_all [leaveOf, Leave.none]

theorem leaveOf_opens {c : Instr} (h : (leaveOf c).opens) : ∃ q, c = .hello q := by
  cases c <;> simp_all [leaveOf, Leave.none]

theorem mayReset_iff (c : Instr) (cause : ResetCause) :
    mayReset c cause ↔
      (∃ f, c = .powerUp f) ∧ cause = .power ∨ (∃ f, c = .resetLine f) ∧ cause = .resetLine ∨
        (∃ f, c = .powerLoss f) ∧ cause = .power ∨ c = .transmitFrameEnd ∧ cause = .restart := by
  cases c <;> cases cause <;> simp [mayReset]

/-- Settles O53: a reset opens no session and shows itself by its stage, and any other command does what it has leave for. -/
theorem onlyTheirCommandsDoIt : Obligations.OnlyTheirCommandsDoIt := by
  refine ⟨fun c s t h => ?_, fun s t none h => ?_⟩
  · rcases exec_cases h with ⟨cause, torn, powered, reset, rfl⟩ | kept
    · obtain ⟨-, -, -, stage, closed, caused⟩ := s.resetBy_holds cause torn powered
      refine ⟨fun _ => ?_, fun _ opened => absurd opened (by simp [closed]), fun _ _ => stage,
        fun _ running => absurd stage running⟩
      rcases (mayReset_iff c cause).mp reset with h | h | h | h
      · exact .inr (.inr (.inl h.1))
      · exact .inr (.inr (.inr (.inl h.1)))
      · exact .inr (.inr (.inr (.inr (.inl h.1))))
      · exact .inr (.inr (.inr (.inr (.inr ⟨h.1, caused.trans h.2⟩))))
    · refine ⟨fun h => ?_, fun closed opened => leaveOf_opens (kept.session closed opened),
        fun runs idle => absurd idle (kept.idle runs), fun h _ => leaveOf_starts (kept.cycle h)⟩
      exact (leaveOf_writes (kept.media h)).imp id .inl
  · have kept : s.Kept s.idleLeave t := State.idle_kept (by rwa [step, none] at h)
    exact ⟨by_contra kept.media, kept.session, kept.idle, kept.cycle⟩

end Sys2Proof.Machine

/-! Reset values, the clock, and the requests of run control and STATUS. -/

namespace Sys2Proof.Machine

/-! ## The reset and the clock -/

/-- Settles O52: the blocks' values are those State.reset gives, and the invariants hold of them. -/
theorem resetValues : Obligations.ResetValues := by
  have plans : State.reset.plansOk := ⟨by decide, rfl, rfl, nofun⟩
  have empty : Plan.empty.inRange := by
    refine ⟨by decide, by decide, by decide, by decide, by decide, by decide, by decide, nofun, nofun, .nil⟩
  have invariants : State.reset.seqOk ∧ State.reset.driveOk ∧ State.reset.stopSafe := by
    obtain ⟨seq, drive, stop, -⟩ := State.reset.resetBy_holds .power [] true
    exact ⟨seq, drive, stop⟩
  have captures : State.reset.captures.ok := by
    refine ⟨by decide, by decide, by decide, by decide, nofun⟩
  have notices : Notices.ok ⟨[], 1, 250⟩ := by simp [Notices.ok]
  have store : State.reset.storeOk := by
    refine ⟨⟨nofun, ?_⟩, by decide⟩
    rintro ⟨_, _, none, -⟩
    cases none
  refine ⟨rfl, rfl, rfl, rfl, rfl, rfl, rfl, rfl, rfl, fun i => Row.get_fill _ i, fun i => Row.get_fill _ i, rfl, rfl, rfl,
    rfl, rfl, fun i => ⟨Row.get_fill _ i, Row.get_fill _ i⟩, fun i => Row.get_fill _ i, fun i => ?_, rfl, rfl, rfl, rfl, rfl,
    rfl, rfl, fun i => ⟨Row.get_fill _ i, Row.get_fill _ i⟩, rfl, rfl, fun i => Row.get_fill _ i, rfl, rfl, rfl, rfl, rfl,
    rfl, rfl, rfl, rfl, rfl, State.reset_media_wf, invariants.1, plans, ⟨empty, empty⟩, invariants.2.1, invariants.2.2,
    captures, notices, ⟨by decide, by decide, .nil, nofun⟩, store⟩
  rw [show State.reset.filters.inputs.get i = Filter.resetInput .low from Row.get_fill _ i]
  exact ⟨rfl, rfl, rfl⟩

/-- The phase advances in CYCLING up to the end of the cycle, and elsewhere the wait timer counts (R1, R11). -/
theorem Sequencer.tick_spec (length : Nat) (q : Sequencer) :
    (q.mode = .cycling → q.phase + 1 < length → q.tick length = { q with phase := q.phase + 1 }) ∧
      (q.mode = .cycling → length ≤ q.phase + 1 → q.tick length = { q with endDue := true }) ∧
      (q.mode ≠ .cycling → q.tick length = { q with wait := q.wait.map fun n => n + 1 }) := by
  unfold Sequencer.tick
  refine ⟨fun cycling before => ?_, fun cycling last => ?_, fun other => ?_⟩
  · rw [cycling]
    exact if_pos before
  · rw [cycling]
    exact if_neg (by omega)
  · split
    · exact absurd ‹_› other
    · rfl

/-- Settles O2, by what is due: nothing, one happening, or several. -/
theorem idleStepTakesWhatIsDueOrTicks : Obligations.IdleStepTakesWhatIsDueOrTicks := by
  refine ⟨fun s none => ?_, fun s => ?_⟩
  · have idle : step s = s.idle := by rw [step, none]
    have one (d : Due) (live : s.live = true) (due : s.dueAll = [d]) : step s = s.takeDue d := by
      rw [idle, State.idle, if_pos live, due]
    rw [idle] at one ⊢
    refine ⟨fun dead => ?_, fun live due => ?_, one, fun c => one (.command c), fun d e rest live due => ?_⟩
    · rw [State.idle, dead]
      rfl
    · rw [State.idle, if_pos live, due]
    · exact State.idle_choice live due
  · obtain ⟨before, last, other⟩ := s.seq.tick_spec s.block.length
    refine ⟨before, fun cycling h => ⟨last cycling h, ?_⟩, other, fun i => Row.get_mapIdx _ _ i, rfl, rfl, rfl, rfl, rfl, rfl,
      rfl, rfl, rfl, rfl, rfl, rfl⟩
    have seq : s.tick.seq = { s.seq with endDue := true } := last cycling h
    simp [State.cycleEndDue, seq, cycling]

end Sys2Proof.Machine

/-! RUN, FINISH, HALT and STATUS: the answers of the requests of run control, and what STATUS shows. -/

namespace Sys2Proof.Machine

/-! ## What a request's owner does to the taken request's state -/

theorem State.agrees.beside {u v : State} (x : State) (h : u.agrees v) : (x.beside u).agrees (x.beside v) :=
  congrArg x.quiet.beside h

theorem State.enterHalted_beside (s u : State) (cause : HaltCause) (phase : Nat) (subject : Option Nat) :
    (s.beside u).enterHalted cause phase subject = (s.enterHalted cause phase subject).beside u := by
  have swapped := State.swapPending_beside (s.haltStages ⟨cause, s.seq.cycle, phase, subject⟩) u none
  rw [State.enterHalted_eq, State.enterHalted_eq]
  exact congrArg (fun t : State => t.raise (.report (.halted ⟨cause, s.seq.cycle, phase, subject⟩))) swapped

/-- An operation on the taken request's state agrees with that operation on the state itself. -/
theorem State.taken_op_agrees {f : State → State} (beside : ∀ s u : State, f (s.beside u) = (f s).beside u) (s : State)
    (code : Nat) (q : Req) : (f (s.taken code q)).agrees (f s) := by
  have self : f s = (f s).beside s := beside s s
  rw [State.taken_eq_beside, beside, self]
  exact (s.taken_agrees code q).beside (f s)

theorem State.taken_startRun_agrees (s : State) (code : Nat) (q : Req) (count : Nat) :
    ((s.taken code q).startRun count).agrees (s.startRun count) :=
  State.taken_op_agrees (f := fun s => s.startRun count) (fun s u => s.startRun_beside u count) s code q

theorem State.taken_enterHalted_agrees (s : State) (code : Nat) (q : Req) (cause : HaltCause) (phase : Nat)
    (subject : Option Nat) :
    ((s.taken code q).enterHalted cause phase subject).agrees (s.enterHalted cause phase subject) :=
  State.taken_op_agrees (f := fun s => s.enterHalted cause phase subject)
    (fun s u => s.enterHalted_beside u cause phase subject) s code q

/-! ## The parameters of RUN -/

theorem readRun_be2 {n : Nat} (h : n ≤ 65535) : readRun (be2 n) = some n := by
  have spelled : fromBe (be2 n) = n := by
    simp only [fromBe, be2, List.foldl_cons, List.foldl_nil, BitVec.toNat_ofNat]
    omega
  exact congrArg some spelled

theorem readRun_nil : readRun [] = some 0 := rfl

/-- RUN's parameter bytes are read as its count (R12, R172). -/
theorem readRun_count {params : List Byte} {count : Nat} (h : params = [] ∧ count = 0 ∨ params = be2 count ∧ count ≤ 65535) :
    readRun params = some count := by
  obtain ⟨rfl, rfl⟩ | ⟨rfl, range⟩ := h
  · exact readRun_nil
  · exact readRun_be2 range

/-! ## The owners by cases (R12, R14, R15) -/

theorem runOwner_running {s : State} (h : s.seq.mode.running = true) (count : Nat) :
    runOwner count s = refuse s .wrongState := if_pos h

theorem runOwner_stopped {s : State} (h : s.seq.mode.running = false) (stopped : s.stopAsserted = true) (count : Nat) :
    runOwner count s = refuse s .inhibited := by simp [runOwner, h, stopped]

theorem runOwner_empty {s : State} (h : s.seq.mode.running = false) (released : s.stopAsserted = false)
    (empty : s.plans.active.hasWork = false) (count : Nat) : runOwner count s = refuse s .planEmpty := by
  simp [runOwner, h, released, empty]

theorem runOwner_runs {s : State} (h : s.seq.mode.running = false) (released : s.stopAsserted = false)
    (work : s.plans.active.hasWork = true) (count : Nat) : runOwner count s = okay (s.startRun count) := by
  simp [runOwner, h, released, work]

theorem finishOwner_cycling {s : State} (h : s.seq.mode = .cycling) :
    finishOwner () s = okay { s with seq := { s.seq with finish := true } } := by rw [finishOwner, h]

theorem finishOwner_armed_or_waiting {s : State} (h : s.seq.mode = .armed ∨ s.seq.mode = .waiting) :
    finishOwner () s = okay (s.enterHalted .finished s.seq.phase none) := by
  unfold finishOwner
  obtain h | h := h <;> rw [h]

theorem finishOwner_stands {s : State} (h : s.seq.mode.running = false) : finishOwner () s = refuse s .wrongState := by
  unfold finishOwner
  cases mode : s.seq.mode <;> simp_all [Mode.running]

theorem haltOwner_running {s : State} (h : s.seq.mode.running = true) :
    haltOwner () s = okay (s.enterHalted .host s.seq.phase none) := if_pos h

theorem haltOwner_stands {s : State} (h : s.seq.mode.running = false) : haltOwner () s = refuse s .wrongState := by
  simp [haltOwner, h]

/-! ## The answers of run control -/

/-- A request that its owner refuses is answered with the refusal, and nothing else changes. -/
theorem requestStep_refused {π : Type} {code : Nat} {read : List Byte → Option π} {owner : π → State → Answer} {q : Req}
    {s : State} {p : π} {c : Instr} {status : Status} (hc : exec c s = requestStep code read owner q s)
    (h : s.ready code q) (hp : read q.params = some p) (refused : owner p (s.taken code q) = refuse (s.taken code q) status) :
    Answers c s code q s status [] := by
  have taken := s.taken_agrees code q
  exact requestStep_answers hc h hp (by rwa [refused]) (by rw [refused]; rfl) (by rw [refused]; rfl)
    (by rw [refused]; simp [refuse])

/-- Settles O5, refusal by refusal. -/
theorem runControlRefusals : Obligations.RunControlRefusals := by
  intro s q
  refine ⟨fun ready params => ?_, fun ready params stands => ?_, fun ready params stands => ?_⟩
  · obtain ⟨count, read⟩ : ∃ count, readRun q.params = some count := by
      obtain none | ⟨count, range, bytes⟩ := params
      · exact ⟨0, readRun_count (.inl ⟨none, rfl⟩)⟩
      · exact ⟨count, readRun_count (.inr ⟨bytes, range⟩)⟩
    exact ⟨fun running => requestStep_refused rfl ready read (runOwner_running (by simpa using running) _),
      fun stands stopped =>
        requestStep_refused rfl ready read (runOwner_stopped (by simpa using stands) (by simpa using stopped) _),
      fun stands released empty =>
        requestStep_refused rfl ready read
          (runOwner_empty (by simpa using stands) (by simpa using released) (by simpa using empty) _)⟩
  · have read : readNothing q.params = some () := by rw [params]; rfl
    exact requestStep_refused rfl ready read (finishOwner_stands (by simpa using stands))
  · have read : readNothing q.params = some () := by rw [params]; rfl
    exact requestStep_refused rfl ready read (haltOwner_stands (by simpa using stands))

/-- A request that its owner answers with OK and a halt: the reply, and the halt that the state itself would show. -/
theorem requestStep_halts {π : Type} {code : Nat} {read : List Byte → Option π} {owner : π → State → Answer} {q : Req}
    {s : State} {p : π} {c : Instr} {cause : HaltCause} {phase : Nat} (hc : exec c s = requestStep code read owner q s)
    (h : s.ready code q) (hp : read q.params = some p)
    (halts : owner p (s.taken code q) = okay ((s.taken code q).enterHalted cause phase none)) :
    ∃ t, exec c s = .next t ∧ t.replied (replyTo code q .ok []) ∧ t.link.waiting = none ∧ LinkKept s t ∧
      HaltedFrom s t cause phase none := by
  obtain ⟨agrees, replied, waiting⟩ := (owner p (s.taken code q)).reply_spec code q
  have halted : ((owner p (s.taken code q)).reply code q).agrees (s.enterHalted cause phase none) := by
    rw [halts] at agrees ⊢
    exact agrees.trans (s.taken_enterHalted_agrees code q cause phase none)
  refine ⟨_, hc.trans (requestStep_ready h hp), ?_, ?_, (s.enterHalted_link cause phase none).trans halted.link,
    halted.halted rfl⟩
  · rw [halts] at replied ⊢
    exact replied
  · rw [waiting, halts]
    simp [okay]

/-- A state with the finish flag set (R14). -/
def State.finishing (s : State) : State := { s with seq := { s.seq with finish := true } }

/-- Settles O4, by the state of the sequencer. -/
theorem finishAndHaltEndTheRun : Obligations.FinishAndHaltEndTheRun := by
  refine ⟨fun s q ready params => ?_, fun s q ready params running => ?_⟩
  · have read : readNothing q.params = some () := by rw [params]; rfl
    refine ⟨fun cycling => ?_, fun stands => ?_⟩
    · have owner : finishOwner () (s.taken 2 q) =
          okay (s.taken 2 q).finishing :=
        finishOwner_cycling (by simpa using cycling)
      have agrees : (s.taken 2 q).finishing.agrees s.finishing := congrArg State.finishing (s.taken_agrees 2 q)
      exact requestStep_answers rfl ready read (by rwa [owner]) (by rw [owner]; rfl) (by rw [owner]; rfl)
        (by rw [owner]; simp [okay, State.finishing])
    · have owner := finishOwner_armed_or_waiting (s := s.taken 2 q) (by simpa using stands)
      rw [show (s.taken 2 q).seq.phase = s.seq.phase by simp] at owner
      exact requestStep_halts rfl ready read owner
  · have read : readNothing q.params = some () := by rw [params]; rfl
    have owner := haltOwner_running (s := s.taken 3 q) (by simpa using running)
    rw [show (s.taken 3 q).seq.phase = s.seq.phase by simp] at owner
    exact requestStep_halts rfl ready read owner

/-- With no commit pending a cycle start leaves the plans alone (R47). -/
theorem State.startRun_plans {s : State} (none : s.plans.commitPending = false) (count : Nat) :
    (s.startRun count).plans = s.plans := by
  cases source : s.block.source with
  | internal =>
    rw [State.startRun_internal source]
    obtain ⟨-, plans, -⟩ := State.cycleStart_spec { s with seq := s.seq.ranFor count }
    simpa [PlanBuffers.handedOver, none] using plans
  | triggered => rw [State.startRun_triggered source]

/-- Settles O3: the reply agrees with the started run, an INTERNAL plan's cycle start or a TRIGGERED plan's arming. -/
theorem runStartsARun : Obligations.RunStartsARun := by
  intro s q count ready params stands released work none
  have stands' : s.seq.mode.running = false := by obtain h | h := stands <;> rw [h] <;> rfl
  have owner : runOwner count (s.taken 1 q) = okay ((s.taken 1 q).startRun count) :=
    runOwner_runs (by simpa using stands') (by simpa using released) (by simpa using work) count
  obtain ⟨agrees, replied, waiting⟩ := (runOwner count (s.taken 1 q)).reply_spec 1 q
  have run : ((runOwner count (s.taken 1 q)).reply 1 q).agrees (s.startRun count) := by
    rw [owner] at agrees ⊢
    exact agrees.trans (s.taken_startRun_agrees 1 q count)
  have link : LinkKept s (s.startRun count) := by simp [LinkKept]
  obtain ⟨-, plans, -, -, filters, captures, -, media, store, startup, -⟩ := run.parts
  refine ⟨_, requestStep_ready (owner := runOwner) ready (readRun_count params), ?_, ?_, link.trans run.link,
    plans.trans (State.startRun_plans none count), by simpa using filters, by simpa using captures,
    by simpa using media, by simpa using store, by simpa using startup, fun source => ?_, fun source => ?_⟩
  · rw [owner] at replied ⊢
    exact replied
  · rw [waiting, owner]
    simp [okay]
  · rw [State.startRun_internal source] at run
    exact (State.cycleStart_spec _).of_agrees run
  · rw [State.startRun_triggered source] at run
    exact run

/-! ## STATUS (R22, R156) -/

/-- Settles O28: STATUS is examined at any stage, and its payload is read item by item. -/
theorem statusShowsTheState : Obligations.StatusShowsTheState := by
  intro s q live canTake admits params
  have read : readNothing q.params = some () := by rw [params]; rfl
  have halt : optItem (s.shownHalt.map HaltRecord.bytes) =
      if s.seq.mode = .halted then optItem (s.seq.halt.map HaltRecord.bytes) else [0x00#8] := by
    unfold State.shownHalt
    split <;> rfl
  have stop : stopLineCode s.stopAsserted = if s.filters.stop.level = .low then 0 else 1 := by
    simp [stopLineCode, State.stopAsserted]
  have shown : s.cleared.statusPayload = s.statusPayload := rfl
  refine requestStep_always_answers (owner := statusOwner) rfl live canTake admits rfl read s.cleared_agrees rfl ?_ rfl
  rw [← halt, ← stop]
  exact shown

end Sys2Proof.Machine

/-! Expiries, the STOP line and the end of a cycle: what each happening leaves, with the halts it may bring. -/

namespace Sys2Proof.Machine

/-- A halt and then the arbiter's choice: the halt that R16 lists, with the link and the session as they were. -/
theorem State.enterHalted_arbitrate (s : State) (cause : HaltCause) (phase : Nat) (subject : Option Nat) :
    LinkKept s (s.enterHalted cause phase subject).arbitrate ∧
      HaltedFrom s (s.enterHalted cause phase subject).arbitrate cause phase subject :=
  ⟨(s.enterHalted_link cause phase subject).trans (State.arbitrate_agrees _).link,
    (s.enterHalted_spec cause phase subject).of_agrees (State.arbitrate_agrees _)⟩

theorem timeUp_iff (elapsed ms : Nat) : timeUp elapsed ms = true ↔ ms * 1000 ≤ elapsed := decide_eq_true_iff

/-! ## Lapse and resend timers (R18, R155, R165) -/

theorem State.lapseDue_of {s : State} {n : Nat} (opened : s.session.isOpen = true) (time : s.session.lapseTime ≠ 0)
    (timer : s.session.lapseTimer = some n) (up : s.session.lapseTime * 1000 ≤ n) : s.lapseDue = true := by
  simp [State.lapseDue, opened, time, timer, timeUp_iff, up]

theorem State.resendDue_of {s : State} {k : Nat} {n : Notice} {timer : ResendTimer} (mem : n ∈ s.notices.entries)
    (number : n.number = k) (runs : n.timer = some timer) (up : timer.interval * 1000 ≤ timer.elapsed) :
    s.resendDue k = true := by
  have due : n.timerDue = true := by
    rw [Notice.timerDue, runs]
    exact (timeUp_iff _ _).mpr up
  exact List.any_eq_true.mpr ⟨n, mem, by simp [number, due]⟩

/-- Settles O37: a lapse by its policy and the state of the sequencer, a resend timer by its entry. -/
theorem lapseAndResendTimersExpire : Obligations.LapseAndResendTimersExpire := by
  intro s live
  refine ⟨fun n opened time timer up => ?_, fun k n timer mem number runs up => ?_⟩
  · have runs : exec .lapse s = .next s.lapses.arbitrate :=
      congrArg Host.Outcome.next (if_pos (by rw [live, State.lapseDue_of opened time timer up]; rfl))
    refine ⟨fun goesOn => ?_, fun policy running => ?_⟩
    · have closes : s.lapses = s.closeSession := by
        refine if_neg fun ⟨policy, running⟩ => ?_
        obtain h | h := goesOn
        · exact nomatch h.symm.trans policy
        · exact nomatch h.symm.trans running
      exact ⟨_, runs, closes ▸ State.arbitrate_agrees _⟩
    · have halts : s.lapses = s.closeSession.enterHalted .lapse s.seq.phase none := if_pos ⟨policy, running⟩
      exact ⟨_, runs, halts ▸ State.enterHalted_arbitrate _ _ _ _⟩
  · exact congrArg Host.Outcome.next (if_pos (by rw [live, State.resendDue_of mem number runs up]; rfl))

/-! ## The wait timer and the manual pulses (R11, R67) -/

theorem State.starveDue_of {s : State} {n : Nat} (waits : s.seq.mode = .armed ∨ s.seq.mode = .waiting)
    (timer : s.seq.wait = some n) (up : s.block.starveLimit * 1000 ≤ n) : s.starveDue = true := by
  simp [State.starveDue, waits, timer, timeUp_iff, up]

/-- Settles O45: the wait timer by the starve policy, the manual pulse by its count. -/
theorem waitAndManualTimersExpire : Obligations.WaitAndManualTimersExpire := by
  intro s live
  refine ⟨fun n waits timer up => ?_, fun i ended => ?_⟩
  · intro told
    have runs : exec .waitTimerExpiry s = .next s.starves.arbitrate :=
      congrArg Host.Outcome.next (if_pos (by rw [live, State.starveDue_of waits timer up]; rfl))
    cases policy : s.block.starvePolicy with
    | notify =>
      have tells : s.starves = told := by simp only [State.starves, policy]; rfl
      rw [tells] at runs
      exact ⟨_, runs, (State.arbitrate_agrees told).link, fun _ => State.arbitrate_agrees told, nofun⟩
    | halt =>
      have halts : s.starves = told.enterHalted .starved s.seq.phase (some s.block.startInput.val) := by
        simp only [State.starves, policy]; rfl
      obtain ⟨link, halted⟩ := told.enterHalted_arbitrate .starved s.seq.phase (some s.block.startInput.val)
      rw [halts] at runs
      exact ⟨_, runs, link, nofun, fun _ => halted⟩
  · have due : (s.channels.get i).pulseDue = true := decide_eq_true ended
    exact congrArg Host.Outcome.next (if_pos (by rw [live, due]; rfl))

/-! ## The STOP line (R20, R71, R72) -/

theorem State.stopDue_of {s : State} {age : Nat} {d : Slope} (cand : s.filters.stop.cand = some age)
    (old : s.filters.stop.depth ≤ age) (slope : s.filters.stop.slope = d) : s.stopDue d = true := by
  have due : s.filters.stop.due = true := s.filters.stop.due_iff.mpr ⟨age, cand, old⟩
  simp [State.stopDue, due, slope]

/-- An assertion of the STOP line halts a running sequencer once every channel is INACTIVE (R20, R71). -/
theorem State.stops_running {s : State} (running : s.seq.mode.running = true) :
    s.stops = (s.settleStop.onChannels Channel.stopped).enterHalted .stopLine s.seq.phase none := if_pos running

theorem State.stops_standing {s : State} (stands : s.seq.mode.running = false) :
    s.stops = s.settleStop.onChannels Channel.stopped := if_neg (by simp [stands])

theorem State.stops_filters (s : State) : s.stops.filters = s.settleStop.filters := by
  unfold State.stops
  dsimp only
  split <;> simp [State.onChannels]

theorem State.stops_link (s : State) : LinkKept s s.stops := by
  unfold State.stops
  dsimp only
  split <;> simp [LinkKept, State.onChannels]

/-- The holds stay through an assertion of the STOP line (R71). -/
theorem State.stops_hold (s : State) (i : Fin 8) : (s.stops.channels.get i).hold = (s.channels.get i).hold := by
  have quiet : (s.settleStop.onChannels Channel.stopped).channels.get i = (s.channels.get i).stopped :=
    Row.get_mapIdx _ _ _
  cases running : s.seq.mode.running with
  | true =>
    have halted := (s.settleStop.onChannels Channel.stopped).enterHalted_spec .stopLine s.seq.phase none
    rw [State.stops_running running, (halted.still i (quiet ▸ Channel.stopped_still _)).2, quiet]
    rfl
  | false =>
    rw [State.stops_standing running, quiet]
    rfl

/-- Settles O41: the assertion by whether the sequencer runs, the release at once. -/
theorem stopLineStopsTheOutputs : Obligations.StopLineStopsTheOutputs := by
  intro s age live cand old settled u
  refine ⟨fun high low => ?_, fun low high => ?_⟩
  · have due : s.stopDue .fall = true := State.stopDue_of cand old (by rw [Filter.slope, high])
    have runs : exec .stopAsserted s = .next s.stops.arbitrate := congrArg Host.Outcome.next (if_pos (by rw [live, due]; rfl))
    have still := s.stops_still.2
    refine ⟨_, runs, ?_, s.stops_link.trans (State.arbitrate_agrees _).link, fun i => ?_, fun running => ?_, fun stands => ?_⟩
    · simp [State.stopAsserted, State.stops_filters, State.settleStop, Filter.settle, low]
    · rw [(State.arbitrate_keeps _).2.2.2.1]
      exact ⟨(still i).1, (still i).2, s.stops_hold i⟩
    · rw [State.stops_running running]
      exact (State.enterHalted_arbitrate _ _ _ _).2
    · rw [State.stops_standing stands]
      exact State.arbitrate_agrees _
  · have due : s.stopDue .rise = true := State.stopDue_of cand old (by rw [Filter.slope, low])
    exact congrArg Host.Outcome.next (if_pos (by rw [live, due]; rfl))

/-! ## The end of a cycle (R6, R7, R96) -/

/-- Behind the first report no further one acts (R96). -/
theorem State.missReports_halted (ws : List Window) {s : State} (h : s.seq.mode = .halted) :
    ws.foldl State.missReport s = s := by
  induction ws with
  | nil => rfl
  | cons w ws ih =>
    have acts : s.missReport w = s := if_neg (by simp [h])
    rw [List.foldl_cons, acts, ih]

theorem State.enterHalted_mode (s : State) (cause : HaltCause) (phase : Nat) (subject : Option Nat) :
    (s.enterHalted cause phase subject).seq.mode = .halted := by
  rw [(s.enterHalted_spec cause phase subject).1]

/-- A close with a miss under policy HALT halts at the first of them (R18, R96). -/
theorem State.closeAndReport_miss {s : State} {phase : Nat} {w : Window} {rest : List Window} (cycling : s.seq.mode = .cycling)
    (misses : s.monitor.haltMisses phase = w :: rest) :
    s.closeAndReport phase = (s.closeWindows phase).enterHalted .windowMiss w.closeAt (some w.id) := by
  have first : (s.closeWindows phase).missReport w = (s.closeWindows phase).enterHalted .windowMiss w.closeAt (some w.id) :=
    if_pos (by simpa using cycling)
  rw [State.closeAndReport, misses, List.foldl_cons, first, State.missReports_halted rest (State.enterHalted_mode _ _ _ _)]

theorem State.closeAndReport_none {s : State} {phase : Nat} (noMiss : s.monitor.haltMisses phase = []) :
    s.closeAndReport phase = s.closeWindows phase := by rw [State.closeAndReport, noMiss]; rfl

/-- A window that is missed at a phase closes there (R96). -/
theorem Monitor.haltMisses_closeAt {m : Monitor} {phase : Nat} {w : Window} (h : w ∈ m.haltMisses phase) :
    w.closeAt = phase := by
  simp only [Monitor.haltMisses, Monitor.missing, List.mem_filter, List.mem_map, Watch.missesAt] at h
  obtain ⟨⟨x, ⟨-, missed⟩, rfl⟩, -⟩ := h
  simp_all

/-- A cycle at its end with a miss under policy HALT (R18). -/
theorem State.endCycle_miss {s : State} {w : Window} {rest : List Window} (cycling : s.seq.mode = .cycling)
    (misses : s.monitor.haltMisses s.block.length = w :: rest) :
    s.endCycle = (s.closeWindows s.block.length).enterHalted .windowMiss w.closeAt (some w.id) := by
  have closed := State.closeAndReport_miss cycling misses
  unfold State.endCycle
  rw [closed]
  exact if_neg (by simp [State.enterHalted_mode])

/-- A cycle at its end with no such miss (R6, R7). -/
theorem State.endCycle_goesOn {s : State} (cycling : s.seq.mode = .cycling)
    (noMiss : s.monitor.haltMisses s.block.length = []) : s.endCycle = (s.closeWindows s.block.length).afterCloses := by
  unfold State.endCycle
  rw [State.closeAndReport_none noMiss]
  exact if_pos (by simpa using cycling)

/-- A state with no cycle in progress at the Window Monitor. -/
def State.leftCycle (s : State) : State := { s with monitor := { s.monitor with inProgress := false } }

theorem State.afterCloses_finish {s : State} (finish : s.seq.finish = true) :
    s.afterCloses = s.leftCycle.enterHalted .finished s.block.length none := if_pos finish

theorem State.afterCloses_last {s : State} (goesOn : s.seq.finish = false) (last : s.seq.remaining = some 0) :
    s.afterCloses = s.leftCycle.enterHalted .countDone s.block.length none :=
  (if_neg (by simp [goesOn])).trans (if_pos last)

theorem State.afterCloses_internal {s : State} (goesOn : s.seq.finish = false) (more : s.seq.remaining ≠ some 0)
    (source : s.block.source = .internal) : s.afterCloses = s.leftCycle.cycleStart := by
  have same : s.leftCycle.block = s.block := rfl
  refine (if_neg (by simp [goesOn])).trans ((if_neg more).trans ?_)
  rw [← State.leftCycle, same, source]

theorem State.afterCloses_triggered {s : State} (goesOn : s.seq.finish = false) (more : s.seq.remaining ≠ some 0)
    (source : s.block.source = .triggered) : s.afterCloses = s.leftCycle.enterWaiting := by
  have same : s.leftCycle.block = s.block := rfl
  refine (if_neg (by simp [goesOn])).trans ((if_neg more).trans ?_)
  rw [← State.leftCycle, same, source]

/-- Settles O43, by the misses under policy HALT, the finish flag, the count and the source. -/
theorem endOfCycleEndsOrGoesOn : Obligations.EndOfCycleEndsOrGoesOn := by
  intro s live cycling due closed left
  have runs : exec .endOfCycle s = .next s.endCycle.arbitrate :=
    congrArg Host.Outcome.next (if_pos (by simp [live, State.cycleEndDue, cycling, due]))
  have seq : (s.closeWindows s.block.length).seq = s.seq := by simp
  have block : (s.closeWindows s.block.length).block = s.block := by simp [State.block]
  have link : LinkKept s s.endCycle := by simp [LinkKept]
  refine ⟨_, runs, link.trans (State.arbitrate_agrees _).link, fun w rest misses => ?_, fun noMiss finish => ?_,
    fun noMiss goesOn last => ?_, fun noMiss goesOn more => ⟨fun source => ?_, fun source => ?_⟩⟩
  · rw [State.endCycle_miss cycling misses]
    exact ⟨Monitor.haltMisses_closeAt (misses ▸ List.mem_cons_self), (State.enterHalted_arbitrate _ _ _ _).2⟩
  · rw [State.endCycle_goesOn cycling noMiss, State.afterCloses_finish (by rwa [seq]), block]
    exact (left.enterHalted_arbitrate _ _ _).2
  · rw [State.endCycle_goesOn cycling noMiss, State.afterCloses_last (by rwa [seq]) (by rwa [seq]), block]
    exact (left.enterHalted_arbitrate _ _ _).2
  · rw [State.endCycle_goesOn cycling noMiss, State.afterCloses_internal (by rwa [seq]) (by rwa [seq]) (by rwa [block])]
    exact left.cycleStart_spec.of_agrees (State.arbitrate_agrees _)
  · have waits : left.enterWaiting =
        { left with
          seq :=
            { s.seq with
              mode := .waiting, phase := s.block.length, endDue := false,
              wait := if s.block.starveLimit = 0 then none else some 0 } } := by
      rw [State.enterWaiting, State.freshWait, show left.block = s.block from block, show left.seq = s.seq from seq]
    rw [State.endCycle_goesOn cycling noMiss, State.afterCloses_triggered (by rwa [seq]) (by rwa [seq]) (by rwa [block])]
    exact waits ▸ State.arbitrate_agrees left.enterWaiting

end Sys2Proof.Machine

/-! Input edges: the Cycle Controller and the Window Monitor take an edge in either order (R8 to R10, R94, R95). -/

namespace Sys2Proof.Machine

/-! ## The decision (R8 to R10) -/

theorem State.decision_of_not_start {s : State} {i : Fin 4} {d : Slope} (h : ¬ s.isStart i d = true) :
    s.decision i d = .plain := if_neg h

theorem State.decision_stands {s : State} (i : Fin 4) (d : Slope) (h : s.seq.mode = .idle ∨ s.seq.mode = .halted) :
    s.decision i d = .plain := by
  unfold State.decision
  obtain h | h := h <;> rw [h] <;> exact ite_self _

theorem State.decision_started {s : State} {i : Fin 4} {d : Slope} (start : s.isStart i d = true)
    (h : s.seq.mode = .armed ∨ s.seq.mode = .waiting) : s.decision i d = .started := by
  unfold State.decision
  obtain h | h := h <;> rw [h] <;> exact if_pos start

/-- In CYCLING a start edge is decided by the guard, and from the guard on by the finish flag and the count (R9, R10). -/
theorem State.decision_cycling {s : State} {i : Fin 4} {d : Slope} (start : s.isStart i d = true)
    (cycling : s.seq.mode = .cycling) :
    s.decision i d =
      if s.seq.phase < s.block.guard then .early
      else if s.seq.finish = true ∨ s.seq.remaining = some 0 then .cutHalted
      else .cutStarted := by
  unfold State.decision
  rw [cycling]
  exact if_pos start

/-! ## A cut (R10) -/

theorem State.cut_beside (s u : State) : (s.beside u).cut = s.cut.beside u := by
  have from_ : (s.beside u).cutFrom = s.cutFrom.beside u := rfl
  have seq : (s.beside u).seq = s.seq := rfl
  rw [State.cut_eq, State.cut_eq, from_, seq, State.enterHalted_beside, State.enterHalted_beside, State.cycleStart_beside]
  split
  · rfl
  · split <;> rfl

theorem State.cut_goesOn {s : State} (h : ¬ (s.seq.finish = true ∨ s.seq.remaining = some 0)) :
    s.cut = s.cutFrom.cycleStart := by
  obtain ⟨goesOn, more⟩ := not_or.mp h
  rw [State.cut_eq, if_neg goesOn, if_neg more]

/-- The cause of a halt at a cut: a FINISH before the count (R10). -/
def Sequencer.lastCause (q : Sequencer) : HaltCause := if q.finish = true then .finished else .countDone

theorem State.cut_ends {s : State} (h : s.seq.finish = true ∨ s.seq.remaining = some 0) :
    s.cut = s.cutFrom.enterHalted s.seq.lastCause s.seq.phase none := by
  unfold Sequencer.lastCause
  rw [State.cut_eq]
  split
  · rfl
  · rename_i goesOn
    exact if_pos (h.resolve_left goesOn)

/-! ## The two orders (R95) -/

/-- What the Cycle Controller and the Window Monitor make of an edge, the Window Monitor first or second (R95). -/
def State.ledBy (s : State) (i : Fin 4) (d : Slope) (monitorFirst : Bool) : State :=
  if monitorFirst then (s.monitorTakes i d).controllerTakes i d else (s.controllerTakes i d).monitorTakes i d

theorem State.takeInputEdge_eq (s : State) (i : Fin 4) (d : Slope) (first : Bool) :
    ∃ window, s.takeInputEdge i d first = State.captureEdge s (s.ledBy i d first) i d window := by
  cases first <;> exact ⟨_, rfl⟩

theorem State.takeInputEdge_took (s : State) (i : Fin 4) (d : Slope) (first : Bool) :
    (s.takeInputEdge i d first).arbitrate.tookFrom (s.ledBy i d first) i := by
  obtain ⟨window, taken⟩ := s.takeInputEdge_eq i d first
  exact taken ▸ State.captureEdge_took _ _ _ _ _

/-- What the Cycle Controller makes of an edge by its decision, the Window Monitor's part takes place before it or after it,
whatever stands in the parts that neither touches. -/
theorem State.takeInputEdge_acts {op : State → State} {s : State} {i : Fin 4} {d : Slope} (u : State) (first : Bool)
    (beside : ∀ x v : State, op (x.beside v) = (op x).beside v)
    (acts : ∀ x : State, x.decision i d = s.decision i d → x.controllerTakes i d = op x) :
    ((s.beside u).takeInputEdge i d first).arbitrate.tookFrom (op (s.monitorTakes i d)) i ∨
      ((s.beside u).takeInputEdge i d first).arbitrate.tookFrom ((op s).monitorTakes i d) i := by
  have took := (s.beside u).takeInputEdge_took i d first
  cases first with
  | true =>
    have led : (s.beside u).ledBy i d true = (op (s.monitorTakes i d)).beside u :=
      (acts ((s.monitorTakes i d).beside u) rfl).trans (beside _ _)
    rw [led] at took
    exact .inl took
  | false =>
    have led : (s.beside u).ledBy i d false = ((op s).monitorTakes i d).beside u :=
      congrArg (fun t : State => t.monitorTakes i d) ((acts (s.beside u) rfl).trans (beside _ _))
    rw [led] at took
    exact .inr took

/-- An edge that the Cycle Controller takes with no effect is the Window Monitor's alone (R94). -/
theorem State.takeInputEdge_plain {s : State} {i : Fin 4} {d : Slope} (plain : s.decision i d = .plain) (u : State)
    (first : Bool) : ((s.beside u).takeInputEdge i d first).arbitrate.tookFrom (s.monitorTakes i d) i := by
  have took := State.takeInputEdge_acts (op := id) u first (fun _ _ => rfl) fun x same => by
    rw [State.controllerTakes, same.trans plain]
    rfl
  exact took.elim id id

/-! ## The Cycle Controller by its decision -/

/-- A start edge in ARMED or WAITING starts a cycle, the Window Monitor's part before it or after it (R8). -/
theorem State.takeInputEdge_started {s : State} {i : Fin 4} {d : Slope} (started : s.decision i d = .started) (u : State)
    (first : Bool) :
    ((s.beside u).takeInputEdge i d first).arbitrate.tookFrom (s.monitorTakes i d).cycleStart i ∨
      ((s.beside u).takeInputEdge i d first).arbitrate.tookFrom (s.cycleStart.monitorTakes i d) i :=
  State.takeInputEdge_acts u first State.cycleStart_beside fun x same => by
    rw [State.controllerTakes, same.trans started]

/-- A start edge from the guard on cuts the cycle, the Window Monitor's part before the cut or after it (R10). -/
theorem State.takeInputEdge_cut {s : State} {i : Fin 4} {d : Slope}
    (cuts : s.decision i d = .cutStarted ∨ s.decision i d = .cutHalted) (u : State) (first : Bool) :
    ((s.beside u).takeInputEdge i d first).arbitrate.tookFrom (s.monitorTakes i d).cut i ∨
      ((s.beside u).takeInputEdge i d first).arbitrate.tookFrom (s.cut.monitorTakes i d) i :=
  State.takeInputEdge_acts u first State.cut_beside fun x same => by
    rw [State.controllerTakes, same]
    obtain h | h := cuts <;> rw [h]

/-- The early counter of an input is not the Capture Queue's to change when it takes an edge (R83, R84, R90). -/
theorem State.record_early (s : State) (r : CaptureRecord) (i : Fin 4) :
    ((s.record r).captures.tallies.get i).early = (s.captures.tallies.get i).early := by
  have modified (f : InputTally → InputTally) (keeps : ∀ n, (f n).early = n.early) :
      ((s.captures.tallies.modify r.input f).get i).early = (s.captures.tallies.get i).early := by
    rw [Row.get_modify]
    split
    · exact keeps _
    · rfl
  unfold State.record
  split
  · dsimp only
    split <;> exact modified (fun n => { n with stored := bump n.stored }) fun _ => rfl
  · exact modified _ fun _ => rfl

/-- An edge below the guard counts as early and is told (R9). -/
theorem State.takeInputEdge_early {s : State} {i : Fin 4} {d : Slope} (early : s.decision i d = .early) (u : State)
    (first : Bool) :
    ((s.beside u).takeInputEdge i d first).arbitrate.tookFrom
        ((s.monitorTakes i d).raise (.merging (.earlyStart i) s.seq.cycle)) i ∧
      (((s.beside u).takeInputEdge i d first).captures.tallies.get i).early =
        bump (u.captures.tallies.get i).early := by
  have acts (x : State) (same : x.decision i d = .early) :
      x.controllerTakes i d = (x.countEarly i).raise (.merging (.earlyStart i) x.seq.cycle) := by
    rw [State.controllerTakes, same]
  have led : (s.beside u).ledBy i d first =
      (((s.beside u).countEarly i).monitorTakes i d).raise (.merging (.earlyStart i) s.seq.cycle) := by
    cases first with
    | true => exact acts ((s.beside u).monitorTakes i d) early
    | false => exact congrArg (fun t : State => t.monitorTakes i d) (acts (s.beside u) early)
  refine ⟨?_, ?_⟩
  · have took := (s.beside u).takeInputEdge_took i d first
    rw [led] at took
    exact took
  · obtain ⟨window, taken⟩ := (s.beside u).takeInputEdge_eq i d first
    have counted : (((s.beside u).ledBy i d first).captures.tallies.get i).early =
        bump (u.captures.tallies.get i).early := by
      rw [led]
      exact congrArg InputTally.early (Row.get_modify_self u.captures.tallies i _)
    rw [taken, State.captureEdge]
    split
    · rw [State.record_early, counted]
    · exact counted

/-- Settles O38, by the Cycle Controller's decision: none, a start, an early edge, a cut that goes on, a cut that ends. -/
theorem inputEdgeFollowsTheDecisionTable : Obligations.InputEdgeFollowsTheDecisionTable := by
  intro s i d live due s' seen start lastOf cause
  let r : State := { s' with choices := s.choices + 1 }
  let first := Config.monitorFirst s.choices
  have runs : exec (.inputEdge i d) s = .next (s.inputEdges i d).arbitrate :=
    congrArg Host.Outcome.next (if_pos (by rw [live, due]; rfl))
  have edges : s.inputEdges i d = (s'.beside r).takeInputEdge i d first := rfl
  have filters : (s.inputEdges i d).arbitrate.filters = s'.filters := by
    rw [edges]
    simp only [State.arbitrate_keeps, State.takeInputEdge_keeps]
    rfl
  have link : LinkKept s (s.inputEdges i d) := by simp [LinkKept]
  refine ⟨_, runs, filters, by simp, by simp, by simp, link.trans (State.arbitrate_agrees _).link, ?_⟩
  intro took
  have isStart : s'.isStart i d = true ↔ start := s'.isStart_iff i d
  rw [edges]
  refine ⟨fun plain => ?_, fun starts stands => ?_, fun starts cycling early => ?_, fun starts cycling late goesOn => ?_,
    fun starts cycling late ends => ?_⟩
  · have decided : s'.decision i d = .plain := by
      obtain h | h := plain
      · exact State.decision_of_not_start (mt isStart.mp h)
      · exact State.decision_stands i d h
    exact State.takeInputEdge_plain decided r first
  · have acted := State.takeInputEdge_started (State.decision_started (isStart.mpr starts) stands) r first
    exact acted.imp (fun h => ⟨_, seen.cycleStart_spec, h⟩) fun h => ⟨_, s'.cycleStart_spec, h⟩
  · have decided : s'.decision i d = .early :=
      (State.decision_cycling (isStart.mpr starts) cycling).trans (if_pos early)
    obtain ⟨told, counted⟩ := State.takeInputEdge_early decided r first
    exact ⟨told, by simpa only [State.arbitrate_keeps] using counted⟩
  · have decided : s'.decision i d = .cutStarted :=
      (State.decision_cycling (isStart.mpr starts) cycling).trans ((if_neg (Nat.not_lt.mpr late)).trans (if_neg goesOn))
    have acted := State.takeInputEdge_cut (.inl decided) r first
    rw [State.cut_goesOn (s := s'.monitorTakes i d) goesOn, State.cut_goesOn (s := s') goesOn] at acted
    exact acted.imp (fun h => ⟨_, seen.cutFrom.cycleStart_spec, h⟩) fun h => ⟨_, s'.cutFrom.cycleStart_spec, h⟩
  · have decided : s'.decision i d = .cutHalted :=
      (State.decision_cycling (isStart.mpr starts) cycling).trans ((if_neg (Nat.not_lt.mpr late)).trans (if_pos ends))
    have acted := State.takeInputEdge_cut (.inr decided) r first
    rw [State.cut_ends (s := s'.monitorTakes i d) ends, State.cut_ends (s := s') ends] at acted
    exact acted.imp (fun h => ⟨_, seen.cutFrom.enterHalted_spec _ _ _, h⟩)
      fun h => ⟨_, s'.cutFrom.enterHalted_spec _ _ _, h⟩

end Sys2Proof.Machine

end

section
/-! Plans on the wire and on the media (11, R172, R174, R175): what each reader reads, and the bytes it reads it from. -/

set_option Elab.async false

namespace Sys2Proof.Machine

/-! ## Codes of enumerated values (R172) -/

theorem Source.ofCode_iff {n : Nat} {x : Source} : Source.ofCode n = some x ↔ n = x.code := by
  unfold Source.ofCode
  split <;> cases x <;> simp_all [Source.code]

theorem StartEdge.ofCode_iff {n : Nat} {x : StartEdge} : StartEdge.ofCode n = some x ↔ n = x.code ∧ x ≠ .none := by
  unfold StartEdge.ofCode
  split <;> cases x <;> simp_all [StartEdge.code]

theorem Policy.ofCode_iff {n : Nat} {x : Policy} : Policy.ofCode n = some x ↔ n = x.code := by
  unfold Policy.ofCode
  split <;> cases x <;> simp_all [Policy.code]

theorem Sense.ofCode_iff {n : Nat} {x : Sense} : Sense.ofCode n = some x ↔ n = x.code := by
  unfold Sense.ofCode
  split <;> cases x <;> simp_all [Sense.code]

theorem CaptureEdges.ofCode_iff {n : Nat} {x : CaptureEdges} : CaptureEdges.ofCode n = some x ↔ n = x.code := by
  unfold CaptureEdges.ofCode
  split <;> cases x <;> simp_all [CaptureEdges.code]

theorem slopeOfCode_iff {n : Nat} {x : Slope} : slopeOfCode n = some x ↔ n = slopeCode x := by
  unfold slopeOfCode
  split <;> cases x <;> simp_all [slopeCode]

theorem wireOfCode_iff {n : Nat} {x : Wire} : wireOfCode n = some x ↔ n = wireCode x := by
  unfold wireOfCode
  split <;> cases x <;> simp_all [wireCode]

theorem finOfCode_iff {n k : Nat} {i : Fin n} : finOfCode n k = some i ↔ k = i.val := by
  unfold finOfCode
  split
  · simp [Fin.ext_iff]
  · have := i.isLt
    simp
    omega

theorem finOfCode_none {n k : Nat} : finOfCode n k = none ↔ n ≤ k := by simp [finOfCode]

theorem StartEdge.code_lt {x : StartEdge} (h : x ≠ .none) : x.code < 2 := by cases x <;> simp_all [StartEdge.code]

theorem Source.code_lt (x : Source) : x.code < 2 := by cases x <;> decide

theorem Policy.code_lt (x : Policy) : x.code < 2 := by cases x <;> decide

theorem CaptureEdges.code_lt (x : CaptureEdges) : x.code < 4 := by cases x <;> decide

theorem slopeCode_lt (x : Slope) : slopeCode x < 2 := by cases x <;> decide

theorem wireCode_lt (x : Wire) : wireCode x < 2 := by cases x <;> decide

theorem Action.code_lt (x : Action) : x.code < 4 := by cases x <;> simp [Action.code]

/-! ## Numbers (R172) -/

theorem read1_iff {bs r : List Byte} {n : Nat} : read1 bs = some (n, r) ↔ n < 256 ∧ bs = be1 n ++ r := by
  cases bs with
  | nil => simp [read1, be1]
  | cons a t =>
    simp only [read1, be1, Option.some.injEq, Prod.mk.injEq, List.cons_append, List.nil_append, List.cons.injEq]
    constructor
    · rintro ⟨rfl, rfl⟩
      exact ⟨a.isLt, by simp, rfl⟩
    · rintro ⟨h, rfl, rfl⟩
      exact ⟨by simpa using h, rfl⟩

theorem read2_iff {bs r : List Byte} {n : Nat} : read2 bs = some (n, r) ↔ n < 65536 ∧ bs = be2 n ++ r := by
  unfold read2
  split
  · rename_i a b t
    have ha := a.isLt
    have hb := b.isLt
    simp only [fromBe, be2, List.foldl_cons, List.foldl_nil, Option.some.injEq, Prod.mk.injEq, List.cons_append,
      List.nil_append, List.cons.injEq, ← BitVec.toNat_inj, BitVec.toNat_ofNat]
    constructor
    · rintro ⟨rfl, rfl⟩
      refine ⟨?_, ?_, ?_, rfl⟩ <;> omega
    · rintro ⟨h, h1, h2, rfl⟩
      exact ⟨by omega, rfl⟩
  · rename_i short
    simp only [reduceCtorEq, false_iff, not_and]
    rintro - rfl
    exact short _ _ _ rfl

theorem read3_iff {bs r : List Byte} {n : Nat} : read3 bs = some (n, r) ↔ n < 16777216 ∧ bs = be3 n ++ r := by
  unfold read3
  split
  · rename_i a b c t
    have ha := a.isLt
    have hb := b.isLt
    have hc := c.isLt
    simp only [fromBe, be3, List.foldl_cons, List.foldl_nil, Option.some.injEq, Prod.mk.injEq, List.cons_append,
      List.nil_append, List.cons.injEq, ← BitVec.toNat_inj, BitVec.toNat_ofNat]
    constructor
    · rintro ⟨rfl, rfl⟩
      refine ⟨?_, ?_, ?_, ?_, rfl⟩ <;> omega
    · rintro ⟨h, h1, h2, h3, rfl⟩
      exact ⟨by omega, rfl⟩
  · rename_i short
    simp only [reduceCtorEq, false_iff, not_and]
    rintro - rfl
    exact short _ _ _ _ rfl

/-! ## Readers -/

/-- A reader reads a value from exactly the bytes that spell it, and leaves what stands behind them. -/
def Reads {α : Type} (rd : List Byte → Option (α × List Byte)) (spells : α → List Byte → Prop) : Prop :=
  ∀ bs a r, rd bs = some (a, r) ↔ ∃ w, spells a w ∧ bs = w ++ r

theorem Reads.congr {α : Type} {rd : List Byte → Option (α × List Byte)} {P Q : α → List Byte → Prop} (h : Reads rd P)
    (same : ∀ a w, P a w ↔ Q a w) : Reads rd Q := by
  intro bs a r
  rw [h bs a r]
  simp only [same]

theorem reads1 : Reads read1 fun n w => n < 256 ∧ w = be1 n := by
  intro bs n r
  simp [read1_iff, and_assoc]

theorem reads2 : Reads read2 fun n w => n < 65536 ∧ w = be2 n := by
  intro bs n r
  simp [read2_iff, and_assoc]

/-- One reader behind another reads one word behind another. -/
theorem Reads.bind {α β : Type} {ra : List Byte → Option (α × List Byte)} {P : α → List Byte → Prop}
    {k : α → List Byte → Option (β × List Byte)} {Q : α → β → List Byte → Prop} (ha : Reads ra P)
    (hk : ∀ a, Reads (k a) (Q a)) :
    Reads (fun bs => (ra bs).bind fun x => k x.1 x.2) fun b w => ∃ a v u, P a v ∧ Q a b u ∧ w = v ++ u := by
  intro bs b r
  simp only [Option.bind_eq_some_iff, Prod.exists]
  constructor
  · rintro ⟨a, t, first, rest⟩
    obtain ⟨v, pa, rfl⟩ := (ha _ _ _).mp first
    obtain ⟨u, qb, rfl⟩ := (hk a _ _ _).mp rest
    exact ⟨v ++ u, ⟨a, v, u, pa, qb, rfl⟩, by simp⟩
  · rintro ⟨w, ⟨a, v, u, pa, qb, rfl⟩, rfl⟩
    exact ⟨a, u ++ r, (ha _ _ _).mpr ⟨v, pa, by simp⟩, (hk a _ _ _).mpr ⟨u, qb, rfl⟩⟩

/-- A value computed from what is read, where it can be. -/
theorem Reads.readBoth {α β : Type} {ra : List Byte → Option (α × List Byte)} {rb : List Byte → Option (β × List Byte)}
    {P : α → List Byte → Prop} {Q : β → List Byte → Prop} (ha : Reads ra P) (hb : Reads rb Q) :
    Reads (readBoth ra rb) fun x w => ∃ v u, P x.1 v ∧ Q x.2 u ∧ w = v ++ u := by
  rintro bs ⟨a, b⟩ r
  simp only [Machine.readBoth, Option.bind_eq_some_iff, Option.map_eq_some_iff, Prod.exists, Prod.mk.injEq]
  constructor
  · rintro ⟨a', t, first, b', r', rest, ⟨rfl, rfl⟩, rfl⟩
    obtain ⟨v, pa, rfl⟩ := (ha _ _ _).mp first
    obtain ⟨u, qb, rfl⟩ := (hb _ _ _).mp rest
    exact ⟨v ++ u, ⟨v, u, pa, qb, rfl⟩, by simp⟩
  · rintro ⟨w, ⟨v, u, pa, qb, rfl⟩, rfl⟩
    exact ⟨a, u ++ r, (ha _ _ _).mpr ⟨v, pa, by simp⟩, b, r, (hb _ _ _).mpr ⟨u, qb, rfl⟩, ⟨rfl, rfl⟩, rfl⟩

/-- The word of an optional item: its own where it is there, and none where it is not (R172). -/
def Optional {α : Type} (P : α → List Byte → Prop) : Option α → List Byte → Prop
  | some a, w => P a w
  | none, w => w = []

theorem Reads.readIf {α : Type} {rd : List Byte → Option (α × List Byte)} {P : α → List Byte → Prop} (h : Reads rd P)
    (present : Bool) : Reads (readIf present rd) fun o w => o.isSome = present ∧ Optional P o w := by
  intro bs o r
  cases present
  · cases o <;> simp [Machine.readIf, Optional, eq_comm]
  · cases o with
    | none => simp [Machine.readIf]
    | some a => simp [Machine.readIf, Optional, h bs]

theorem Reads.readMany {α : Type} {rd : List Byte → Option (α × List Byte)} {P : α → List Byte → Prop} (h : Reads rd P)
    (n : Nat) : Reads (readMany rd n) fun l w => l.length = n ∧ ∃ ws, List.Forall₂ P l ws ∧ w = ws.flatten := by
  induction n with
  | zero =>
    intro bs l r
    cases l <;> simp [Machine.readMany]
  | succ n ih =>
    intro bs l r
    simp only [Machine.readMany, Option.bind_eq_some_iff, Option.map_eq_some_iff, Prod.exists, Prod.mk.injEq]
    constructor
    · rintro ⟨a, t, first, l', r', rest, rfl, rfl⟩
      obtain ⟨v, pa, rfl⟩ := (h _ _ _).mp first
      obtain ⟨u, ⟨rfl, ws, all, rfl⟩, rfl⟩ := (ih _ _ _).mp rest
      exact ⟨v ++ ws.flatten, ⟨rfl, v :: ws, .cons pa all, rfl⟩, by simp⟩
    · rintro ⟨w, ⟨length, ws, all, rfl⟩, rfl⟩
      cases all with
      | nil => cases length
      | @cons a v l ws pa all =>
        exact ⟨a, ws.flatten ++ r, (h _ _ _).mpr ⟨v, pa, by simp⟩, l, r,
          (ih _ _ _).mpr ⟨_, ⟨Nat.succ.inj length, ws, all, rfl⟩, rfl⟩, rfl, rfl⟩

/-- What a reader reads, all of the bytes used up (R172). -/
theorem Reads.allRead {α : Type} {rd : List Byte → Option (α × List Byte)} {P : α → List Byte → Prop} (h : Reads rd P)
    {bs : List Byte} {a : α} : allRead (rd bs) = some a ↔ P a bs := by
  unfold Machine.allRead
  constructor
  · intro read
    obtain ⟨⟨a', r⟩, first, rest⟩ := Option.bind_eq_some_iff.mp read
    split at rest
    · rename_i none
      cases rest
      obtain ⟨w, pa, rfl⟩ := (h _ _ _).mp first
      obtain rfl : r = [] := none
      simpa using pa
    · cases rest
  · intro pa
    rw [(h bs a []).mpr ⟨bs, pa, by simp⟩]
    rfl

/-! ## Entry records (R172) -/

/-- The width of an action as its record carries it. -/
def Action.rawWidth : Action → Option Nat
  | .pulse w => some w
  | _ => none

/-- An entry as the fields of its record. -/
def Entry.raw (e : Entry) : RawEntry :=
  ⟨e.id, e.offset, e.channel.val, e.action.code, e.action.rawWidth, e.rep.map fun r => (r.count, r.spacing),
    e.every.map fun v => (v.divider, v.remainder), e.gate.map fun g => (g.input.val, wireCode g.level)⟩

theorem checkAction_iff {code : Nat} {width : Option Nat} {a : Action} :
    checkAction code width = .ok a ↔
      code = a.code ∧ width = a.rawWidth ∧ ∀ w, a = .pulse w → 1 ≤ w ∧ w ≤ 65535 := by
  unfold checkAction
  split <;> try split
  all_goals cases a <;> simp_all [Action.code, Action.rawWidth]
  all_goals grind

theorem checkRepeat_iff {raw : Option (Nat × Nat)} {rep : Option Repeat} :
    checkRepeat raw = .ok rep ↔
      raw = rep.map (fun r => (r.count, r.spacing)) ∧
        ∀ r, rep = some r → 2 ≤ r.count ∧ r.count ≤ 64 ∧ 2 ≤ r.spacing ∧ r.spacing ≤ 65535 := by
  rcases raw with _ | ⟨count, spacing⟩ <;> rcases rep with _ | ⟨count', spacing'⟩ <;> simp [checkRepeat]
  all_goals grind

theorem checkEvery_iff {raw : Option (Nat × Nat)} {every : Option Every} :
    checkEvery raw = .ok every ↔
      raw = every.map (fun v => (v.divider, v.remainder)) ∧
        ∀ v, every = some v → 2 ≤ v.divider ∧ v.divider ≤ 255 ∧ v.remainder < v.divider := by
  rcases raw with _ | ⟨divider, remainder⟩ <;> rcases every with _ | ⟨divider', remainder'⟩ <;> simp [checkEvery]
  all_goals grind

theorem checkGate_iff {raw : Option (Nat × Nat)} {gate : Option Gate} :
    checkGate raw = .ok gate ↔ raw = gate.map fun g => (g.input.val, wireCode g.level) := by
  constructor
  · intro h
    unfold checkGate at h
    split at h
    · cases h
      rfl
    · split at h <;> cases h
      rename_i input level
      simp [finOfCode_iff.mp input, wireOfCode_iff.mp level]
  · rintro rfl
    rcases gate with _ | ⟨i, l⟩
    · rfl
    · simp [checkGate, finOfCode_iff.mpr rfl, wireOfCode_iff.mpr rfl]

theorem ok_bind_iff {α β : Type} {x : Except Nat α} {f : α → Except Nat β} {b : β} :
    (x >>= f) = .ok b ↔ ∃ a, x = .ok a ∧ f a = .ok b := by
  cases x <;> simp [bind, Except.bind]

/-- The fields of a record that pass the checks are those of an entry in range, and of no other (R29). -/
theorem RawEntry.check_iff {raw : RawEntry} {e : Entry} : raw.check = .ok e ↔ raw = e.raw ∧ e.inRange := by
  constructor
  · intro h
    unfold RawEntry.check at h
    split at h
    · cases h
    · rename_i ids
      split at h
      · cases h
      · rename_i offsets
        split at h
        · cases h
        · rename_i c channel
          simp only [ok_bind_iff, Except.ok.injEq] at h
          obtain ⟨action, fields, rep, repFields, every, everyFields, gate, gateFields, rfl⟩ := h
          obtain ⟨code, width, widths⟩ := checkAction_iff.mp fields
          obtain ⟨repRaw, repeats⟩ := checkRepeat_iff.mp repFields
          obtain ⟨everyRaw, everies⟩ := checkEvery_iff.mp everyFields
          obtain ⟨idLow, idTop⟩ := not_not.mp ids
          refine ⟨?_, idLow, idTop, not_not.mp offsets, widths, repeats, everies⟩
          simp [Entry.raw, ← code, ← width, ← repRaw, ← everyRaw, ← checkGate_iff.mp gateFields,
            ← finOfCode_iff.mp channel]
  · rintro ⟨rfl, idLow, idTop, offsets, widths, repeats, everies⟩
    have channel : finOfCode 8 e.raw.channel = some e.channel := finOfCode_iff.mpr rfl
    unfold RawEntry.check
    rw [if_neg (not_not.mpr ⟨idLow, idTop⟩), if_neg (not_not.mpr (show e.raw.offset ≤ 16777214 from offsets)), channel]
    exact ok_bind_iff.mpr ⟨_, checkAction_iff.mpr ⟨rfl, rfl, widths⟩, ok_bind_iff.mpr ⟨_, checkRepeat_iff.mpr ⟨rfl, repeats⟩,
      ok_bind_iff.mpr ⟨_, checkEvery_iff.mpr ⟨rfl, everies⟩, ok_bind_iff.mpr ⟨_, checkGate_iff.mpr rfl, rfl⟩⟩⟩⟩

/-- A presence byte is told by its four bits. -/
theorem presence_of_bits {p : Nat} (h : p < 16) :
    p = (if p.testBit 0 then 1 else 0) + (if p.testBit 1 then 2 else 0) + (if p.testBit 2 then 4 else 0) +
      if p.testBit 3 then 8 else 0 := by
  interval_cases p <;> decide

theorem Entry.presence_bits (e : Entry) :
    e.presence < 16 ∧ e.presence.testBit 0 = e.action.rawWidth.isSome ∧ e.presence.testBit 1 = e.rep.isSome ∧
      e.presence.testBit 2 = e.every.isSome ∧ e.presence.testBit 3 = e.gate.isSome := by
  unfold Entry.presence
  obtain ⟨_, _, _, action, rep, every, gate⟩ := e
  cases action <;> cases rep <;> cases every <;> cases gate <;> simp [Action.rawWidth] <;> decide

theorem Entry.presence_unique {e : Entry} {p : Nat} (top : p < 16) (width : e.action.rawWidth.isSome = p.testBit 0)
    (rep : e.rep.isSome = p.testBit 1) (every : e.every.isSome = p.testBit 2) (gate : e.gate.isSome = p.testBit 3) :
    p = e.presence := by
  obtain ⟨top', width', rep', every', gate'⟩ := e.presence_bits
  rw [presence_of_bits top, presence_of_bits top', width', rep', every', gate', width, rep, every, gate]

/-- The bytes of an entry's repeat group. -/
def Entry.repBytes (e : Entry) : List Byte := e.rep.elim [] fun r => be1 r.count ++ be2 r.spacing

/-- The bytes of an entry's every group. -/
def Entry.everyBytes (e : Entry) : List Byte := e.every.elim [] fun v => be1 v.divider ++ be1 v.remainder

/-- The bytes of an entry's gate group. -/
def Entry.gateBytes (e : Entry) : List Byte := e.gate.elim [] fun g => be1 g.input.val ++ be1 (wireCode g.level)

theorem Entry.bytes_eq (e : Entry) :
    e.bytes = be1 e.id ++ be3 e.offset ++ be1 e.channel.val ++ be1 e.action.code ++ be1 e.presence ++
      e.action.widthBytes ++ e.repBytes ++ e.everyBytes ++ e.gateBytes := by
  obtain ⟨_, _, _, _, rep, every, gate⟩ := e
  cases rep <;> cases every <;> cases gate <;> rfl

theorem optional_width {e : Entry} (h : e.inRange) {w : List Byte} :
    Optional (fun n w => n < 65536 ∧ w = be2 n) e.action.rawWidth w ↔ w = e.action.widthBytes := by
  obtain ⟨-, -, -, widths, -⟩ := h
  cases action : e.action with
  | pulse n =>
    have := widths n action
    simp only [Action.rawWidth, Optional, Action.widthBytes, and_iff_right_iff_imp]
    omega
  | _ => rfl

theorem optional_rep {e : Entry} (h : e.inRange) {w : List Byte} :
    Optional (fun x w => ∃ v u, (x.1 < 256 ∧ v = be1 x.1) ∧ (x.2 < 65536 ∧ u = be2 x.2) ∧ w = v ++ u) e.raw.rep w ↔
      w = e.repBytes := by
  obtain ⟨-, -, -, -, repeats, -⟩ := h
  unfold Entry.raw Entry.repBytes
  cases rep : e.rep with
  | none => rfl
  | some r =>
    obtain ⟨-, count, -, spacing⟩ := repeats r rep
    have : r.count < 256 := by omega
    have : r.spacing < 65536 := by omega
    simp_all [Optional]

theorem optional_every {e : Entry} (h : e.inRange) {w : List Byte} :
    Optional (fun x w => ∃ v u, (x.1 < 256 ∧ v = be1 x.1) ∧ (x.2 < 256 ∧ u = be1 x.2) ∧ w = v ++ u) e.raw.every w ↔
      w = e.everyBytes := by
  obtain ⟨-, -, -, -, -, everies⟩ := h
  unfold Entry.raw Entry.everyBytes
  cases every : e.every with
  | none => rfl
  | some v =>
    obtain ⟨-, divider, remainder⟩ := everies v every
    have : v.divider < 256 := by omega
    have : v.remainder < 256 := by omega
    simp_all [Optional]

theorem optional_gate {e : Entry} {w : List Byte} :
    Optional (fun x w => ∃ v u, (x.1 < 256 ∧ v = be1 x.1) ∧ (x.2 < 256 ∧ u = be1 x.2) ∧ w = v ++ u) e.raw.gate w ↔
      w = e.gateBytes := by
  unfold Entry.raw Entry.gateBytes
  cases e.gate with
  | none => rfl
  | some g =>
    have := g.input.isLt
    have := wireCode_lt g.level
    have : g.input.val < 256 := by omega
    have : wireCode g.level < 256 := by omega
    simp_all [Optional]

theorem readRawEntry_iff {e : Entry} (h : e.inRange) {bs r : List Byte} :
    readRawEntry bs = some (e.raw, r) ↔ bs = e.bytes ++ r := by
  have width (p : Bool) := reads2.readIf p
  have rep (p : Bool) := (reads1.readBoth reads2).readIf p
  have pair (p : Bool) := (reads1.readBoth reads1).readIf p
  simp only [Reads] at width rep pair
  simp only [readRawEntry, Option.bind_eq_bind, Option.bind_eq_some_iff, Prod.exists, read1_iff, read3_iff, width, rep, pair]
  constructor
  · rintro ⟨id, _, ⟨-, rfl⟩, offset, _, ⟨-, rfl⟩, channel, _, ⟨-, rfl⟩, action, _, ⟨-, rfl⟩, presence, _, ⟨-, rfl⟩,
      width, _, ⟨ww, ⟨hw, word⟩, rfl⟩, rep, _, ⟨wr, ⟨hr, repWord⟩, rfl⟩, every, _, ⟨we, ⟨he, everyWord⟩, rfl⟩,
      gate, _, ⟨wg, ⟨hg, gateWord⟩, rfl⟩, found⟩
    split at found
    · rename_i top
      cases found
      have repSome : e.raw.rep.isSome = e.rep.isSome := Option.isSome_map
      have everySome : e.raw.every.isSome = e.every.isSome := Option.isSome_map
      have gateSome : e.raw.gate.isSome = e.gate.isSome := Option.isSome_map
      have same := Entry.presence_unique top hw (repSome ▸ hr) (everySome ▸ he) (gateSome ▸ hg)
      rw [same, (optional_width h).mp word, (optional_rep h).mp repWord, (optional_every h).mp everyWord,
        optional_gate.mp gateWord, e.bytes_eq]
      simp only [List.append_assoc]
    · cases found
  · rintro rfl
    obtain ⟨top, width, rep, every, gate⟩ := e.presence_bits
    obtain ⟨-, idTop, offsets, -⟩ := id h
    have := e.channel.isLt
    have := e.action.code_lt
    have repSome : e.raw.rep.isSome = e.rep.isSome := Option.isSome_map
    have everySome : e.raw.every.isSome = e.every.isSome := Option.isSome_map
    have gateSome : e.raw.gate.isSome = e.gate.isSome := Option.isSome_map
    refine ⟨e.raw.id, _, ⟨show e.id < 256 by omega, by rw [e.bytes_eq]; simp only [List.append_assoc]; rfl⟩,
      e.raw.offset, _, ⟨show e.offset < 16777216 by omega, rfl⟩, e.raw.channel, _, ⟨show e.channel.val < 256 by omega, rfl⟩,
      e.raw.action, _, ⟨show e.action.code < 256 by omega, rfl⟩, e.presence, _, ⟨by omega, rfl⟩,
      e.raw.width, _, ⟨_, ⟨width.symm, (optional_width h).mpr rfl⟩, rfl⟩,
      e.raw.rep, _, ⟨_, ⟨repSome.trans rep.symm, (optional_rep h).mpr rfl⟩, rfl⟩,
      e.raw.every, _, ⟨_, ⟨everySome.trans every.symm, (optional_every h).mpr rfl⟩, rfl⟩,
      e.raw.gate, _, ⟨_, ⟨gateSome.trans gate.symm, optional_gate.mpr rfl⟩, rfl⟩, ?_⟩
    rw [if_pos top]

theorem okOnly_iff {α : Type} {x : Except Nat α} {a : α} : okOnly x = some a ↔ x = .ok a := by
  cases x <;> simp [okOnly]

/-- A stored entry is read from its record, in range (R29, R172, R175). -/
theorem readsEntry : Reads readEntry fun e w => e.inRange ∧ w = e.bytes := by
  intro bs e r
  simp only [readEntry, Option.bind_eq_some_iff, Option.map_eq_some_iff, okOnly_iff, RawEntry.check_iff, Prod.exists,
    Prod.mk.injEq]
  constructor
  · rintro ⟨_, _, read, _, ⟨rfl, range⟩, rfl, rfl⟩
    exact ⟨_, ⟨range, rfl⟩, (readRawEntry_iff range).mp read⟩
  · rintro ⟨_, ⟨range, rfl⟩, rfl⟩
    exact ⟨_, _, (readRawEntry_iff range).mpr rfl, e, ⟨rfl, range⟩, rfl, rfl⟩

/-! ## Window records (R172) -/

/-- A window as the fields of its record. -/
def Window.raw (w : Window) : RawWindow :=
  ⟨w.id, w.input.val, slopeCode w.edge, w.openAt, w.closeAt, w.policy.code⟩

/-- The fields of a record that pass the checks are those of a window in range, and of no other (R32). -/
theorem RawWindow.check_iff {raw : RawWindow} {w : Window} : raw.check = .ok w ↔ raw = w.raw ∧ w.inRange := by
  constructor
  · intro h
    unfold RawWindow.check at h
    split at h
    · cases h
    · rename_i ids
      split at h
      · cases h
      · rename_i input
        split at h
        · cases h
        · rename_i edge
          split at h
          · cases h
          · rename_i opens
            split at h
            · cases h
            · rename_i closes
              split at h <;> cases h
              rename_i policy
              obtain ⟨idLow, idTop⟩ := not_not.mp ids
              obtain ⟨closeLow, closeTop⟩ := not_not.mp closes
              refine ⟨?_, idLow, idTop, not_not.mp opens, closeLow, closeTop⟩
              simp [Window.raw, ← finOfCode_iff.mp input, ← slopeOfCode_iff.mp edge, ← Policy.ofCode_iff.mp policy]
  · rintro ⟨rfl, idLow, idTop, opens, closeLow, closeTop⟩
    have input : finOfCode 4 w.raw.input = some w.input := finOfCode_iff.mpr rfl
    have edge : slopeOfCode w.raw.edge = some w.edge := slopeOfCode_iff.mpr rfl
    have policy : Policy.ofCode w.raw.policy = some w.policy := Policy.ofCode_iff.mpr rfl
    unfold RawWindow.check
    simp only [input, edge, policy]
    rw [if_neg (not_not.mpr ⟨idLow, idTop⟩), if_neg (not_not.mpr (show w.raw.openAt ≤ 16777214 from opens)),
      if_neg (not_not.mpr ⟨closeLow, closeTop⟩)]
    rfl

theorem readRawWindow_iff {w : Window} (h : w.inRange) {bs r : List Byte} :
    readRawWindow bs = some (w.raw, r) ↔ bs = w.bytes ++ r := by
  simp only [readRawWindow, Option.bind_eq_bind, Option.bind_eq_some_iff, Prod.exists, read1_iff, read3_iff]
  constructor
  · rintro ⟨id, _, ⟨-, rfl⟩, input, _, ⟨-, rfl⟩, edge, _, ⟨-, rfl⟩, opens, _, ⟨-, rfl⟩, closes, _, ⟨-, rfl⟩,
      policy, _, ⟨-, rfl⟩, found⟩
    cases found
    simp only [Window.bytes, List.append_assoc]
  · rintro rfl
    obtain ⟨-, idTop, opens, -, closes⟩ := h
    have := w.input.isLt
    have := slopeCode_lt w.edge
    have := w.policy.code_lt
    exact ⟨w.raw.id, _, ⟨show w.id < 256 by omega, by simp only [Window.bytes, List.append_assoc]; rfl⟩,
      w.raw.input, _, ⟨show w.input.val < 256 by omega, rfl⟩, w.raw.edge, _, ⟨show slopeCode w.edge < 256 by omega, rfl⟩,
      w.raw.openAt, _, ⟨show w.openAt < 16777216 by omega, rfl⟩,
      w.raw.closeAt, _, ⟨show w.closeAt < 16777216 by omega, rfl⟩,
      w.raw.policy, _, ⟨show w.policy.code < 256 by omega, rfl⟩, rfl⟩

/-- A stored window is read from its record, in range (R32, R172, R175). -/
theorem readsWindow : Reads readWindow fun x w => x.inRange ∧ w = x.bytes := by
  intro bs x r
  simp only [readWindow, Option.bind_eq_some_iff, Option.map_eq_some_iff, okOnly_iff, RawWindow.check_iff, Prod.exists,
    Prod.mk.injEq]
  constructor
  · rintro ⟨_, _, read, _, ⟨rfl, range⟩, rfl, rfl⟩
    exact ⟨_, ⟨range, rfl⟩, (readRawWindow_iff range).mp read⟩
  · rintro ⟨_, ⟨range, rfl⟩, rfl⟩
    exact ⟨_, _, (readRawWindow_iff range).mpr rfl, x, ⟨rfl, range⟩, rfl, rfl⟩

/-! ## The fixed part of a plan (R174) -/

/-- A cycle block's fields lie in the ranges of R26, its start edge set (entry 16). -/
def CycleBlock.storable (c : CycleBlock) : Prop :=
  100 ≤ c.length ∧ c.length ≤ 16777215 ∧ c.guard ≤ 16777215 ∧ c.starveLimit ≤ 65535 ∧ c.startEdge ≠ .none

theorem readsCycleBlock : Reads readCycleBlock fun c w => c.storable ∧ w = c.bytes := by
  intro bs c r
  simp only [readCycleBlock, Option.bind_eq_bind, Option.bind_eq_some_iff, Prod.exists, read1_iff, read2_iff, read3_iff,
    Source.ofCode_iff, StartEdge.ofCode_iff, Policy.ofCode_iff, finOfCode_iff]
  constructor
  · rintro ⟨_, _, ⟨-, rfl⟩, length, _, ⟨lengthTop, rfl⟩, guard, _, ⟨guardTop, rfl⟩, _, _, ⟨-, rfl⟩, _, _, ⟨-, rfl⟩,
      starve, _, ⟨starveTop, rfl⟩, _, _, ⟨-, rfl⟩, source, rfl, input, rfl, edge, ⟨rfl, edgeSet⟩, policy, rfl, found⟩
    split at found <;> cases found
    rename_i lengthLow
    refine ⟨_, ⟨⟨lengthLow, ?_, ?_, ?_, edgeSet⟩, rfl⟩, ?_⟩
    · exact Nat.le_of_lt_succ lengthTop
    · exact Nat.le_of_lt_succ guardTop
    · exact Nat.le_of_lt_succ starveTop
    · simp only [CycleBlock.bytes, List.append_assoc]
  · rintro ⟨_, ⟨⟨lengthLow, lengthTop, guardTop, starveTop, edgeSet⟩, rfl⟩, rfl⟩
    have := c.startInput.isLt
    have := c.source.code_lt
    have := StartEdge.code_lt edgeSet
    have := c.starvePolicy.code_lt
    refine ⟨c.source.code, _, ⟨by omega, by simp only [CycleBlock.bytes, List.append_assoc]; rfl⟩,
      c.length, _, ⟨by omega, rfl⟩, c.guard, _, ⟨by omega, rfl⟩, c.startInput.val, _, ⟨by omega, rfl⟩,
      c.startEdge.code, _, ⟨by omega, rfl⟩, c.starveLimit, _, ⟨by omega, rfl⟩, c.starvePolicy.code, _, ⟨by omega, rfl⟩,
      c.source, rfl, c.startInput, rfl, c.startEdge, ⟨rfl, edgeSet⟩, c.starvePolicy, rfl, ?_⟩
    rw [if_pos lengthLow]

/-- Two bits of a byte are its value modulo 4, six its value modulo 64. -/
theorem toNat_and_low (b : Byte) : (b &&& 0x03#8).toNat = b.toNat % 4 ∧ (b &&& 0x3F#8).toNat = b.toNat % 64 := by
  rw [BitVec.toNat_and, BitVec.toNat_and]
  exact ⟨Nat.and_two_pow_sub_one_eq_mod b.toNat 2, Nat.and_two_pow_sub_one_eq_mod b.toNat 6⟩

/-- The channel record that a stored byte holds in its two low bits (entry 17). -/
theorem channelByte_iff (b : Byte) (c : ChannelCfg) :
    b &&& 0x03#8 = c.byte ↔
      (⟨if b.getLsbD 0 then .activeLow else .activeHigh, if b.getLsbD 1 then .used else .unused⟩ : ChannelCfg) = c := by
  have bit0 : b.getLsbD 0 = decide (b.toNat % 2 = 1) := by simp [BitVec.getLsbD, Nat.testBit_zero]
  have bit1 : b.getLsbD 1 = decide (b.toNat / 2 % 2 = 1) := by simp [BitVec.getLsbD, Nat.testBit_succ]
  rw [bit0, bit1, ← BitVec.toNat_inj, (toNat_and_low b).1]
  obtain ⟨sense, use⟩ := c
  cases sense <;> cases use <;> simp [ChannelCfg.byte, Sense.code] <;> omega

/-- The input record that a stored byte holds in its six low bits (entry 17). -/
theorem inputByte_iff (b : Byte) (c : InputCfg) :
    (c.depth ≤ 15 ∧ b &&& 0x3F#8 = c.byte) ↔ b.toNat / 16 % 4 = c.capture.code ∧ b.toNat % 16 = c.depth := by
  have := c.capture.code_lt
  rw [← BitVec.toNat_inj, (toNat_and_low b).2]
  simp only [InputCfg.byte, BitVec.toNat_ofNat]
  omega

/-- A reader of one byte at a time reads a word of one byte. -/
theorem reads_of_byte {α : Type} {rd : List Byte → Option (α × List Byte)} {P : α → Byte → Prop} (none' : rd [] = none)
    (some' : ∀ b bs a r, rd (b :: bs) = some (a, r) ↔ P a b ∧ bs = r) : Reads rd fun a w => ∃ b, w = [b] ∧ P a b := by
  rintro (_ | ⟨b, bs⟩) a r
  · simp [none']
  · rw [some']
    constructor
    · rintro ⟨same, rfl⟩
      exact ⟨_, ⟨b, rfl, same⟩, rfl⟩
    · rintro ⟨_, ⟨b', rfl, same⟩, h⟩
      cases h
      exact ⟨same, rfl⟩

theorem readsChannelCfg : Reads readChannelCfg fun c w => ∃ b, w = [b] ∧ b &&& 0x03#8 = c.byte := by
  refine reads_of_byte rfl fun b bs c r => ?_
  rw [channelByte_iff]
  simp only [readChannelCfg, Option.some.injEq, Prod.mk.injEq]

theorem readsInputCfg :
    Reads readInputCfg fun c w => ∃ b, w = [b] ∧ c.depth ≤ 15 ∧ b &&& 0x3F#8 = c.byte := by
  refine reads_of_byte rfl fun b bs c r => ?_
  rw [inputByte_iff]
  obtain ⟨depth, capture⟩ := c
  simp only [readInputCfg, Option.map_eq_some_iff, CaptureEdges.ofCode_iff, Prod.mk.injEq, InputCfg.mk.injEq]
  grind

theorem readsErased : Reads readErased fun _ w => ∃ b, w = [b] ∧ b = 0xFF#8 := by
  refine reads_of_byte rfl fun b bs _ r => ?_
  show (if b = 0xFF#8 then some ((), bs) else none) = some _ ↔ _
  split <;> simp [*]

/-! ## Tables -/

/-- Like things, each in its own bytes. -/
theorem forall₂_spelled {α : Type} {R : α → Prop} {enc : α → List Byte} {l : List α} {ws : List (List Byte)} :
    List.Forall₂ (fun a w => R a ∧ w = enc a) l ws ↔ (∀ a ∈ l, R a) ∧ ws = l.map enc := by
  induction l generalizing ws with
  | nil => simp
  | cons a l ih => cases ws <;> simp [ih, and_and_and_comm]

theorem Reads.table {α : Type} {rd : List Byte → Option (α × List Byte)} {R : α → Prop} {enc : α → List Byte}
    (h : Reads rd fun a w => R a ∧ w = enc a) (n : Nat) :
    Reads (Machine.readMany rd n) fun l w => l.length = n ∧ (∀ a ∈ l, R a) ∧ w = (l.map enc).flatten :=
  (h.readMany n).congr fun l w => by
    simp only [forall₂_spelled, and_assoc]
    constructor
    · rintro ⟨length, _, all, rfl, rfl⟩
      exact ⟨length, all, rfl⟩
    · rintro ⟨length, all, rfl⟩
      exact ⟨length, _, all, rfl, rfl⟩

/-- Like things of one byte each. -/
theorem forall₂_bytes {α : Type} {P : α → Byte → Prop} {l : List α} {w : List Byte} :
    (∃ ws, List.Forall₂ (fun a w => ∃ b, w = [b] ∧ P a b) l ws ∧ w = ws.flatten) ↔ List.Forall₂ P l w := by
  constructor
  · rintro ⟨ws, all, rfl⟩
    induction all with
    | nil => exact .nil
    | cons first _ ih =>
      obtain ⟨b, rfl, p⟩ := first
      exact .cons p ih
  · intro all
    induction all with
    | nil => exact ⟨[], .nil, rfl⟩
    | cons p _ ih =>
      obtain ⟨ws, rest, rfl⟩ := ih
      exact ⟨[_] :: ws, .cons ⟨_, rfl, p⟩ rest, rfl⟩

theorem Reads.bytes {α : Type} {rd : List Byte → Option (α × List Byte)} {P : α → Byte → Prop}
    (h : Reads rd fun a w => ∃ b, w = [b] ∧ P a b) (n : Nat) :
    Reads (Machine.readMany rd n) fun l w => l.length = n ∧ List.Forall₂ P l w :=
  (h.readMany n).congr fun l w => by rw [forall₂_bytes]

theorem Reads.row {α : Type} {rd : List Byte → Option (α × List Byte)} {P : α → Byte → Prop}
    (h : Reads rd fun a w => ∃ b, w = [b] ∧ P a b) (n : Nat) :
    Reads (readRow n rd) fun row w => List.Forall₂ P row.cells w := by
  intro bs row r
  have many := h.bytes n bs
  simp only [readRow, Option.bind_eq_some_iff, Prod.exists, many]
  constructor
  · rintro ⟨l, r', ⟨w, ⟨length, all⟩, rfl⟩, found⟩
    rw [dif_pos length] at found
    cases found
    exact ⟨w, all, rfl⟩
  · rintro ⟨w, all, rfl⟩
    exact ⟨row.cells, r, ⟨w, ⟨row.size, all⟩, rfl⟩, dif_pos row.size⟩

/-! ## Plans (R174, R175) -/

/-- A body stores a plan: the bytes of the plan, but for bits of the channel and input bytes that stand for no field
(entry 17) and for the order of the windows (entry 39). -/
def Plan.StoredAs (p : Plan) (cs is : List Byte) (stored : List Window) (body : List Byte) : Prop :=
  body =
      be1 1 ++ (p.cycle.bytes ++ (cs ++ (is ++ (be1 p.entries.length ++ (be1 stored.length ++
        (List.replicate 37 0xFF#8 ++ ((p.entries.map Entry.bytes).flatten ++ (stored.map Window.bytes).flatten))))))) ∧
    List.Forall₂ (fun c b => b &&& 0x03#8 = c.byte) p.channels.cells cs ∧
    List.Forall₂ (fun c b => c.depth ≤ 15 ∧ b &&& 0x3F#8 = c.byte) p.inputs.cells is ∧
    p.windows = windowTable stored ∧ p.cycle.storable ∧ p.entries.length ≤ 64 ∧ stored.length ≤ 8 ∧
    (∀ e ∈ p.entries, e.inRange) ∧ ∀ w ∈ stored, w.inRange

/-- A word that a reader reads is told from what stands behind it, with its value. -/
theorem Reads.unique {α : Type} {rd : List Byte → Option (α × List Byte)} {P : α → List Byte → Prop} (h : Reads rd P)
    {a a' : α} {w w' r r' : List Byte} (p : P a w) (p' : P a' w') (same : w ++ r = w' ++ r') : a = a' ∧ r = r' := by
  have first := (h (w ++ r) a r).mpr ⟨w, p, rfl⟩
  rw [(h (w ++ r) a' r').mpr ⟨w', p', same⟩] at first
  cases first
  exact ⟨rfl, rfl⟩

theorem replicate_erased (l : List Unit) (w : List Byte) :
    List.Forall₂ (fun (_ : Unit) b => b = 0xFF#8) l w ↔ w = List.replicate l.length 0xFF#8 := by
  induction l generalizing w with
  | nil => simp
  | cons a l ih => cases w <;> simp [ih, List.replicate_succ]

theorem readsGap :
    Reads (readMany readErased 37) fun l w => l.length = 37 ∧ w = List.replicate 37 0xFF#8 :=
  (readsErased.bytes 37).congr fun l w => and_congr_right fun length => by rw [replicate_erased, length]

/-- What a PROFILE body holds is what it stores, and it holds nothing where it stores nothing (R116, R174, R175). -/
theorem Plan.ofBytes_iff {body : List Byte} {p : Plan} :
    Plan.ofBytes body = some p ↔ ∃ cs is stored, p.StoredAs cs is stored body := by
  have channels := readsChannelCfg.row 8
  have inputs := readsInputCfg.row 4
  have entries (n : Nat) := readsEntry.table n
  have windows (n : Nat) := readsWindow.table n
  have block := readsCycleBlock
  have gap := readsGap
  simp only [Reads] at channels inputs entries windows block gap
  simp only [Plan.ofBytes, Option.bind_eq_bind, Option.bind_eq_some_iff, Prod.exists, read1_iff, block, channels, inputs,
    entries, windows, gap]
  constructor
  · rintro ⟨_, _, ⟨-, rfl⟩, cycle, _, ⟨_, ⟨storable, rfl⟩, rfl⟩, channels, _, ⟨cs, bytes, rfl⟩, inputs, _, ⟨is, bytes', rfl⟩,
      _, _, ⟨-, rfl⟩, _, _, ⟨-, rfl⟩, _, _, ⟨_, ⟨-, rfl⟩, rfl⟩, entries, _, ⟨_, ⟨rfl, entriesOk, rfl⟩, rfl⟩,
      stored, _, ⟨_, ⟨rfl, windowsOk, rfl⟩, rfl⟩, found⟩
    split at found
    · rename_i last
      obtain ⟨rfl, entryTop, windowTop, rfl⟩ := last
      cases found
      exact ⟨cs, is, stored, by simp, bytes, bytes', rfl, storable, entryTop, windowTop, entriesOk, windowsOk⟩
    · cases found
  · rintro ⟨cs, is, stored, rfl, bytes, bytes', table, storable, entryTop, windowTop, entriesOk, windowsOk⟩
    refine ⟨1, _, ⟨by decide, rfl⟩, p.cycle, _, ⟨_, ⟨storable, rfl⟩, rfl⟩, p.channels, _, ⟨cs, bytes, rfl⟩,
      p.inputs, _, ⟨is, bytes', rfl⟩, p.entries.length, _, ⟨by omega, rfl⟩, stored.length, _, ⟨by omega, rfl⟩,
      List.replicate 37 (), _, ⟨_, ⟨List.length_replicate, rfl⟩, rfl⟩, p.entries, _, ⟨_, ⟨rfl, entriesOk, rfl⟩, rfl⟩,
      stored, [], ⟨_, ⟨rfl, windowsOk, rfl⟩, by simp⟩, ?_⟩
    rw [if_pos ⟨rfl, entryTop, windowTop, rfl⟩, ← table]

/-- Behind a body that stores a plan no byte may stand (R175). -/
theorem Plan.ofBytes_append {body more : List Byte} {p : Plan} (h : Plan.ofBytes body = some p) (some' : more ≠ []) :
    Plan.ofBytes (body ++ more) = none := by
  obtain ⟨cs, is, stored, rfl, bytes, bytes', -, storable, entryTop, windowTop, entriesOk, windowsOk⟩ :=
    Plan.ofBytes_iff.mp h
  by_contra found
  obtain ⟨p', found⟩ := Option.ne_none_iff_exists'.mp found
  obtain ⟨cs', is', stored', same, bytes2, bytes2', -, storable', entryTop', windowTop', entriesOk', windowsOk'⟩ :=
    Plan.ofBytes_iff.mp found
  simp only [List.append_assoc] at same
  have ne := List.append_cancel_left same
  obtain ⟨-, ne⟩ := readsCycleBlock.unique ⟨storable, rfl⟩ ⟨storable', rfl⟩ ne
  obtain ⟨-, ne⟩ := (readsChannelCfg.row 8).unique bytes bytes2 ne
  obtain ⟨-, ne⟩ := (readsInputCfg.row 4).unique bytes' bytes2' ne
  obtain ⟨entryCount, ne⟩ := reads1.unique (a := p.entries.length) (a' := p'.entries.length) ⟨by omega, rfl⟩ ⟨by omega, rfl⟩ ne
  obtain ⟨windowCount, ne⟩ := reads1.unique (a := stored.length) (a' := stored'.length) ⟨by omega, rfl⟩ ⟨by omega, rfl⟩ ne
  have ne := List.append_cancel_left ne
  obtain ⟨-, ne⟩ := (readsEntry.table _).unique ⟨rfl, entriesOk, rfl⟩ ⟨entryCount.symm, entriesOk', rfl⟩ ne
  obtain ⟨-, ne⟩ := (readsWindow.table _).unique (r := more) (r' := []) ⟨rfl, windowsOk, rfl⟩
    ⟨windowCount.symm, windowsOk', rfl⟩ (by simpa using ne)
  exact some' ne

theorem mem_windowTable {x : Window} {ws : List Window} : x ∈ windowTable ws ↔ x ∈ ws := by
  induction ws using List.reverseRecOn with
  | nil => rfl
  | append_singleton ws w ih =>
    have e : windowTable (ws ++ [w]) = insertWindow w (windowTable ws) := by simp [windowTable]
    rw [e, mem_insertWindow, ih, List.mem_append, List.mem_singleton, or_comm]

theorem insertWindow_length (w : Window) (ws : List Window) : (insertWindow w ws).length = ws.length + 1 := by
  induction ws with
  | nil => rfl
  | cons x ws ih =>
    unfold insertWindow
    split <;> simp [ih]

theorem windowTable_length (ws : List Window) : (windowTable ws).length = ws.length := by
  induction ws using List.reverseRecOn with
  | nil => rfl
  | append_singleton ws w ih =>
    have e : windowTable (ws ++ [w]) = insertWindow w (windowTable ws) := by simp [windowTable]
    rw [e, insertWindow_length, ih, List.length_append, List.length_singleton]

/-- A row has what each of its cells has. -/
theorem Row.forall_cells {n : Nat} {α : Type} {r : Row n α} {P : α → Prop} :
    (∀ a ∈ r.cells, P a) ↔ ∀ i, P (r.get i) := by
  constructor
  · exact fun all i => all _ (List.getElem_mem _)
  · intro all a mem
    obtain ⟨k, bound, rfl⟩ := List.mem_iff_getElem.mp mem
    exact all ⟨k, r.size ▸ bound⟩

/-- A plan that a body stores lies in the ranges, its start edge set (R26 to R32, R175; entry 16). -/
theorem Plan.StoredAs.inRange {p : Plan} {cs is : List Byte} {stored : List Window} {body : List Byte}
    (h : p.StoredAs cs is stored body) : p.inRange ∧ p.cycle.startEdge ≠ .none := by
  obtain ⟨-, -, bytes', table, ⟨lengthLow, lengthTop, guardTop, starveTop, edgeSet⟩, entryTop, windowTop, entriesOk,
    windowsOk⟩ := h
  have depths : ∀ c ∈ p.inputs.cells, c.depth ≤ 15 := by
    intro c mem
    obtain ⟨k, bound, rfl⟩ := List.mem_iff_getElem.mp mem
    exact (List.forall₂_iff_get.mp bytes').2 k bound ((List.forall₂_iff_get.mp bytes').1 ▸ bound) |>.1
  refine ⟨⟨lengthLow, lengthTop, guardTop, starveTop, Row.forall_cells.mp depths, entryTop, ?_, entriesOk, ?_, ?_⟩, edgeSet⟩
  · rwa [table, windowTable_length]
  · rw [table]
    exact fun w mem => windowsOk w (mem_windowTable.mp mem)
  · rw [table]
    exact (windowTable_spec stored).1

/-- A body that is read holds a plan in the ranges (R175). -/
theorem Plan.ofBytes_inRange {body : List Byte} {p : Plan} (h : Plan.ofBytes body = some p) : p.inRange := by
  obtain ⟨cs, is, stored, found⟩ := Plan.ofBytes_iff.mp h
  exact found.inRange.1

/-! ## The bytes of a plan (R174) -/

theorem ChannelCfg.byte_masked (c : ChannelCfg) : c.byte &&& 0x03#8 = c.byte := by
  obtain ⟨sense, use⟩ := c
  cases sense <;> cases use <;> decide

theorem InputCfg.byte_masked {c : InputCfg} (h : c.depth ≤ 15) : c.byte &&& 0x3F#8 = c.byte := by
  have := c.capture.code_lt
  rw [← BitVec.toNat_inj, (toNat_and_low _).2]
  simp only [InputCfg.byte, BitVec.toNat_ofNat]
  omega

theorem Plan.bytes_eq (p : Plan) :
    p.bytes =
      be1 1 ++ (p.cycle.bytes ++ (p.channels.cells.map ChannelCfg.byte ++ (p.inputs.cells.map InputCfg.byte ++
        (be1 p.entries.length ++ (be1 p.windows.length ++ (List.replicate 37 0xFF#8 ++
          ((p.entries.map Entry.bytes).flatten ++ (p.windows.map Window.bytes).flatten))))))) := by
  simp only [Plan.bytes, Plan.fixedBytes, List.append_assoc]

/-- A plan in range with its start edge set is stored by its own bytes. -/
theorem Plan.storedAs_bytes {p : Plan} (h : p.inRange) (edgeSet : p.cycle.startEdge ≠ .none) :
    p.StoredAs (p.channels.cells.map ChannelCfg.byte) (p.inputs.cells.map InputCfg.byte) p.windows p.bytes := by
  obtain ⟨lengthLow, lengthTop, guardTop, starveTop, depths, entryTop, windowTop, entriesOk, windowsOk, ordered⟩ := h
  refine ⟨p.bytes_eq, ?_, ?_, (windowTable_of_ordered _ ordered).symm,
    ⟨lengthLow, lengthTop, guardTop, starveTop, edgeSet⟩, entryTop, windowTop, entriesOk, windowsOk⟩
  · rw [List.forall₂_map_right_iff, List.forall₂_same]
    exact fun c _ => c.byte_masked
  · have range : ∀ c ∈ p.inputs.cells, c.depth ≤ 15 := Row.forall_cells.mpr depths
    rw [List.forall₂_map_right_iff, List.forall₂_same]
    exact fun c mem => ⟨range c mem, InputCfg.byte_masked (range c mem)⟩

@[simp] theorem be1_length (n : Nat) : (be1 n).length = 1 := rfl

@[simp] theorem be2_length (n : Nat) : (be2 n).length = 2 := rfl

@[simp] theorem be3_length (n : Nat) : (be3 n).length = 3 := rfl

theorem Entry.bytes_length (e : Entry) : e.bytes.length ≤ 16 := by
  have width : e.action.widthBytes.length ≤ 2 := by cases e.action <;> simp [Action.widthBytes]
  have rep : e.repBytes.length ≤ 3 := by unfold Entry.repBytes; cases e.rep <;> simp
  have every : e.everyBytes.length ≤ 2 := by unfold Entry.everyBytes; cases e.every <;> simp
  have gate : e.gateBytes.length ≤ 2 := by unfold Entry.gateBytes; cases e.gate <;> simp
  simp only [Entry.bytes_eq, List.length_append, be1_length, be3_length]
  omega

theorem Window.bytes_length (w : Window) : w.bytes.length = 10 := rfl

/-- Rows of bounded length make a table of bounded length. -/
theorem flatten_length_le {α : Type} {enc : α → List Byte} {n : Nat} (h : ∀ a, (enc a).length ≤ n) (l : List α) :
    (l.map enc).flatten.length ≤ n * l.length := by
  induction l with
  | nil => simp
  | cons a l ih =>
    have := h a
    simp only [List.map_cons, List.flatten_cons, List.length_append, List.length_cons, Nat.mul_succ]
    omega

theorem CycleBlock.bytes_length (c : CycleBlock) : c.bytes.length = 12 := rfl

theorem Plan.bytes_length {p : Plan} (h : p.inRange) : p.bytes.length ≤ 1168 := by
  obtain ⟨-, -, -, -, -, entryTop, windowTop, -⟩ := h
  have entries := flatten_length_le Entry.bytes_length p.entries
  have windows := flatten_length_le (fun w => w.bytes_length.le) p.windows
  simp only [Plan.bytes_eq, List.length_append, CycleBlock.bytes_length, List.length_map, p.channels.size, p.inputs.size,
    be1_length, List.length_replicate]
  omega

/-- Bytes that hold records but for some bits are the records' bytes once masked. -/
theorem masked_of_forall₂ {α : Type} {byte : α → Byte} {mask : Byte} {l : List α} {w : List Byte}
    (h : List.Forall₂ (fun a b => b &&& mask = byte a) l w) : l.map byte = w.map (· &&& mask) := by
  induction h with
  | nil => rfl
  | cons first _ ih => simp [first, ih]

/-- Two words that differ in a stretch alone are alike before and behind it, and there as the stretches are. -/
theorem getElem?_around {α : Type} {a m m' b : List α} (same : m.length = m'.length) (k : Nat) :
    ((k < a.length ∨ a.length + m.length ≤ k) → (a ++ (m ++ b))[k]? = (a ++ (m' ++ b))[k]?) ∧
      (a.length ≤ k → k < a.length + m.length → (a ++ (m ++ b))[k]? = m[k - a.length]?) := by
  refine ⟨fun outside => ?_, fun low high => ?_⟩
  · rcases outside with before | behind
    · rw [List.getElem?_append_left before, List.getElem?_append_left before]
    · rw [List.getElem?_append_right (by omega), List.getElem?_append_right (by omega),
        List.getElem?_append_right (by omega), List.getElem?_append_right (by omega), same]
  · rw [List.getElem?_append_right low, List.getElem?_append_left (by omega)]

/-- A body that stores a plan is the bytes of the plan with its windows as they are stored, but for unused bits. -/
theorem Plan.StoredAs.bytes_agree {p : Plan} {cs is : List Byte} {stored : List Window} {body : List Byte}
    (h : p.StoredAs cs is stored body) (k : Nat) :
    let q : Plan := { p with windows := stored }
    ((k < 13 ∨ 25 ≤ k) → body[k]? = q.bytes[k]?) ∧
      (13 ≤ k → k < 25 →
        ∃ b, body[k]? = some b ∧ q.bytes[k]? = some (b &&& if k < 21 then 0x03#8 else 0x3F#8)) := by
  obtain ⟨rfl, channels, inputs, -⟩ := h
  have cLength : cs.length = 8 := (channels.length_eq).symm.trans p.channels.size
  have iLength : is.length = 4 := (inputs.length_eq).symm.trans p.inputs.size
  have cMasked := masked_of_forall₂ channels
  have iMasked := masked_of_forall₂ (inputs.imp fun _ _ => And.right)
  intro q
  have bytes : q.bytes = (be1 1 ++ p.cycle.bytes) ++ ((cs.map (· &&& 0x03#8) ++ is.map (· &&& 0x3F#8)) ++
      (be1 p.entries.length ++ (be1 stored.length ++ (List.replicate 37 0xFF#8 ++
        ((p.entries.map Entry.bytes).flatten ++ (stored.map Window.bytes).flatten))))) := by
    rw [Plan.bytes_eq, ← cMasked, ← iMasked]
    simp only [List.append_assoc, q]
  rw [bytes]
  generalize be1 p.entries.length ++ _ = rest
  have aLength : (be1 1 ++ p.cycle.bytes).length = 13 := rfl
  have around := getElem?_around (a := be1 1 ++ p.cycle.bytes) (m := cs ++ is)
    (m' := cs.map (· &&& 0x03#8) ++ is.map (· &&& 0x3F#8)) (b := rest) (by simp) k
  have around' := getElem?_around (a := be1 1 ++ p.cycle.bytes) (m := cs.map (· &&& 0x03#8) ++ is.map (· &&& 0x3F#8))
    (m' := cs ++ is) (b := rest) (by simp) k
  have mLength : (cs ++ is).length = 12 := by simp [cLength, iLength]
  have mLength' : (cs.map (· &&& 0x03#8) ++ is.map (· &&& 0x3F#8)).length = 12 := by simp [cLength, iLength]
  rw [aLength, mLength] at around
  rw [aLength, mLength'] at around'
  have assoc : be1 1 ++ (p.cycle.bytes ++ (cs ++ (is ++ rest))) = (be1 1 ++ p.cycle.bytes) ++ ((cs ++ is) ++ rest) := by
    simp only [List.append_assoc]
  rw [assoc]
  refine ⟨around.1, fun low high => ?_⟩
  rw [around.2 low high, around'.2 low high]
  by_cases channel : k < 21
  · rw [if_pos channel, List.getElem?_append_left (by omega), List.getElem?_append_left (by simp; omega),
      List.getElem?_map, List.getElem?_eq_getElem (show k - 13 < cs.length by omega)]
    exact ⟨_, rfl, rfl⟩
  · rw [if_neg channel, List.getElem?_append_right (by omega), List.getElem?_append_right (by simp; omega),
      List.getElem?_map, List.length_map, List.getElem?_eq_getElem (show k - 13 - cs.length < is.length by omega)]
    exact ⟨_, rfl, rfl⟩

/-- The fixed part of a body that stores a plan, byte by byte (R174). -/
theorem Plan.StoredAs.fixed {p : Plan} {cs is : List Byte} {stored : List Window} {body : List Byte}
    (h : p.StoredAs cs is stored body) :
    (body.getD 0 0#8).toNat = 1 ∧ (body.getD 1 0#8).toNat ≤ 1 ∧ 100 ≤ fromBe ((body.drop 2).take 3) ∧
      (body.getD 8 0#8).toNat ≤ 3 ∧ (body.getD 9 0#8).toNat ≤ 1 ∧ (body.getD 12 0#8).toNat ≤ 1 ∧
      (body.getD 25 0#8).toNat ≤ 64 ∧ (body.getD 26 0#8).toNat ≤ 8 ∧
      ∀ k, 27 ≤ k → k ≤ 63 → (body.getD k 0#8).toNat = 255 := by
  obtain ⟨rfl, channels, inputs, -, ⟨lengthLow, lengthTop, -, -, edgeSet⟩, entryTop, windowTop, -⟩ := h
  have cLength : cs.length = 8 := (channels.length_eq).symm.trans p.channels.size
  have iLength : is.length = 4 := (inputs.length_eq).symm.trans p.inputs.size
  have := p.cycle.source.code_lt
  have := p.cycle.startInput.isLt
  have := StartEdge.code_lt edgeSet
  have := p.cycle.starvePolicy.code_lt
  have behind (k : Nat) (hk : 25 ≤ k) (rest : List Byte) :
      (be1 1 ++ (p.cycle.bytes ++ (cs ++ (is ++ rest)))).getD k 0#8 = rest.getD (k - 25) 0#8 := by
    have length : (be1 1 ++ (p.cycle.bytes ++ (cs ++ is))).length = 25 := by
      simp [CycleBlock.bytes_length, cLength, iLength]
    rw [show be1 1 ++ (p.cycle.bytes ++ (cs ++ (is ++ rest))) = (be1 1 ++ (p.cycle.bytes ++ (cs ++ is))) ++ rest by simp,
      List.getD_append_right _ _ _ _ (by omega), length]
  refine ⟨rfl, ?_, ?_, ?_, ?_, ?_, ?_, ?_, ?_⟩
  · show p.cycle.source.code % 256 ≤ 1
    omega
  · show 100 ≤ fromBe (be3 p.cycle.length)
    simp only [fromBe, be3, List.foldl_cons, List.foldl_nil, BitVec.toNat_ofNat]
    omega
  · show p.cycle.startInput.val % 256 ≤ 3
    omega
  · show p.cycle.startEdge.code % 256 ≤ 1
    omega
  · show p.cycle.starvePolicy.code % 256 ≤ 1
    omega
  · rw [behind 25 (by omega)]
    show p.entries.length % 256 ≤ 64
    omega
  · rw [behind 26 (by omega)]
    show stored.length % 256 ≤ 8
    omega
  · intro k low high
    rw [behind k (by omega), List.getD_append_right _ _ _ _ (by simp; omega), List.getD_append_right _ _ _ _ (by simp; omega),
      List.getD_append _ _ _ _ (by simp; omega), List.getD_eq_getElem _ _ (by simp; omega), List.getElem_replicate]
    rfl

/-- Settles O60, by the readers: what each reads, and the bytes it reads it from. -/
theorem planSerializesAndReadsBack : Obligations.PlanSerializesAndReadsBack := by
  refine ⟨fun p range edgeSet => ?_, fun body p read => ?_, fun body => ?_⟩
  · have read : Plan.ofBytes p.bytes = some p := Plan.ofBytes_iff.mpr ⟨_, _, _, Plan.storedAs_bytes range edgeSet⟩
    refine ⟨read, Plan.bytes_length range, fun more => Plan.ofBytes_append read, fun n short => ?_⟩
    by_contra found
    obtain ⟨p', found⟩ := Option.ne_none_iff_exists'.mp found
    have cut := Plan.ofBytes_append found (more := p.bytes.drop n) (by simpa using short)
    rw [List.take_append_drop, read] at cut
    cases cut
  · obtain ⟨cs, is, stored, found⟩ := Plan.ofBytes_iff.mp read
    obtain ⟨range, edgeSet⟩ := found.inRange
    have table : p.windows = windowTable stored := found.2.2.2.1
    refine ⟨range, edgeSet, stored, fun id => ?_, fun k => (found.bytes_agree k).1, fun k => (found.bytes_agree k).2⟩
    rw [table, (windowTable_spec stored).2]
  · intro byte bad
    by_contra found
    obtain ⟨p, found⟩ := Option.ne_none_iff_exists'.mp found
    obtain ⟨cs, is, stored, found⟩ := Plan.ofBytes_iff.mp found
    obtain ⟨format, source, length, input, edge, policy, entries, windows, erased⟩ := found.fixed
    rcases bad with h | ⟨k, low, high, h⟩ | h | h | h | h | h | h | h
    · exact h format
    · exact h (erased k low high)
    · exact absurd entries (Nat.not_le.mpr h)
    · exact absurd windows (Nat.not_le.mpr h)
    · exact absurd source (Nat.not_le.mpr h)
    · exact absurd length (Nat.not_le.mpr h)
    · exact absurd input (Nat.not_le.mpr h)
    · exact absurd edge (Nat.not_le.mpr h)
    · exact absurd policy (Nat.not_le.mpr h)

end Sys2Proof.Machine

end

section
/-! The plans over every step: checked, in use by their blocks, and in their ranges (R26 to R50). -/

set_option Elab.async false

namespace Sys2Proof.Machine

/-! ## The windows of the monitor -/

/-- The windows that the monitor works by. -/
def Monitor.windows (m : Monitor) : List Window := m.table.map Watch.window

/-- Changing each row's state and first hit leaves the windows. -/
theorem windows_map {f : Watch → Watch} (same : ∀ w, (f w).window = w.window) (table : List Watch) :
    (table.map f).map Watch.window = table.map Watch.window := by
  rw [List.map_map]
  exact List.map_congr_left fun w _ => same w

@[simp] theorem Monitor.countAll_windows (m : Monitor) (ids : List Nat) (f : WindowTally → WindowTally) :
    (m.countAll ids f).windows = m.windows := congrArg (List.map Watch.window) (m.countAll_keeps ids f).1

@[simp] theorem Monitor.close_windows (m : Monitor) (phase : Nat) : (m.close phase).windows = m.windows :=
  (Monitor.countAll_windows _ _ _).trans (windows_map (fun w => by split <;> rfl) m.table)

@[simp] theorem Monitor.abandon_windows (m : Monitor) : m.abandon.windows = m.windows := by
  unfold Monitor.abandon
  split
  · exact (Monitor.countAll_windows _ _ _).trans (windows_map (fun w => by split <;> rfl) m.table)
  · rfl

@[simp] theorem Monitor.meet_windows (m : Monitor) (i : Fin 4) (d : Slope) (phase : Nat) :
    (m.meet i d phase).windows = m.windows := by
  unfold Monitor.meet
  split
  · exact (Monitor.countAll_windows _ _ _).trans (windows_map (fun w => by split <;> rfl) m.table)
  · rfl

@[simp] theorem Monitor.openOne_windows (m : Monitor) (id phase : Nat) : (m.openOne id phase).windows = m.windows := by
  refine windows_map (fun w => ?_) m.table
  split
  · unfold Watch.openAt
    split <;> rfl
  · rfl

@[simp] theorem Monitor.withTable_windows (m : Monitor) (windows : List Window) :
    (m.withTable windows).windows = windows := by
  unfold Monitor.windows Monitor.withTable
  rw [List.map_map]
  exact List.map_id' windows

/-! ## What keeps the plans -/

/-- From one state to another the plans stay checked, in use by their blocks, and in their ranges. -/
structure State.PlansKept (s t : State) : Prop where
  checked : s.plansOk → t.plansOk
  ranged : s.rangesOk → t.rangesOk

theorem State.PlansKept.refl (s : State) : s.PlansKept s := ⟨id, id⟩

theorem State.PlansKept.trans {s t u : State} (h : s.PlansKept t) (h' : t.PlansKept u) : s.PlansKept u :=
  ⟨h'.checked ∘ h.checked, h'.ranged ∘ h.ranged⟩

theorem State.plansOk_iff (s : State) :
    s.plansOk ↔
      s.plans.active.failure = none ∧ s.timeline.edges = s.plans.active.expand ∧
        s.monitor.windows = s.plans.active.windows ∧
        (s.plans.commitPending = true →
          s.plans.staged.failure = none ∧ s.plans.stagedTimeline = s.plans.staged.expand) := Iff.rfl

/-- A happening that leaves the plans, the timeline's edges and the windows alone. -/
theorem State.PlansKept.of_same {s t : State} (plans : t.plans = s.plans := by simp)
    (edges : t.timeline.edges = s.timeline.edges := by simp)
    (windows : t.monitor.windows = s.monitor.windows := by simp) : s.PlansKept t := by
  refine ⟨fun ok => ?_, fun ok => ?_⟩
  · rw [State.plansOk_iff] at ok ⊢
    rwa [plans, edges, windows]
  · unfold State.rangesOk at ok ⊢
    rwa [plans]

theorem State.PlansKept.arbitrated {s t : State} (h : s.PlansKept t) : s.PlansKept t.arbitrate := h.trans .of_same

/-- A point at which a pending commit goes in, with its timeline and its windows (R47, R48). -/
theorem State.PlansKept.of_handedOver {s t : State} {cycle : Option W32} (plans : s.plans.handedOver t.plans cycle)
    (edges : t.timeline.edges = if s.plans.commitPending = true then s.plans.stagedTimeline else s.timeline.edges)
    (windows : t.monitor.windows = if s.plans.commitPending = true then s.plans.staged.windows else s.monitor.windows) :
    s.PlansKept t := by
  unfold PlanBuffers.handedOver at plans
  by_cases pending : s.plans.commitPending = true
  · rw [if_pos pending] at plans edges windows
    refine ⟨fun ok => ?_, fun ok => ?_⟩
    · obtain ⟨-, -, -, staged⟩ := ok
      obtain ⟨passes, expanded⟩ := staged pending
      rw [State.plansOk_iff, plans, edges, windows]
      exact ⟨passes, expanded, rfl, nofun⟩
    · unfold State.rangesOk
      rw [plans]
      exact ⟨ok.1, ok.1⟩
  · rw [if_neg pending] at plans edges windows
    exact .of_same plans edges windows

/-- With no commit pending a plan in range may take the staged one's place (R25). -/
theorem State.stage_plansKept {s : State} {p : Plan} (none : s.plans.commitPending = false)
    (range : s.rangesOk → p.inRange) : s.PlansKept (s.stage p) := by
  refine ⟨fun ok => ?_, fun ok => ⟨range ok, ok.2⟩⟩
  obtain ⟨passes, edges, windows, -⟩ := ok
  exact ⟨passes, edges, windows, fun pending => nomatch none.symm.trans pending⟩

/-! ## Halts and cycle starts (R5, R16) -/

theorem State.cycleStart_plansKept (s : State) : s.PlansKept s.cycleStart := by
  obtain ⟨-, plans, -, -, -, windows, edges, -⟩ := s.cycleStart_spec
  exact .of_handedOver plans edges windows

theorem State.enterHalted_plansKept (s : State) (cause : HaltCause) (phase : Nat) (subject : Option Nat) :
    s.PlansKept (s.enterHalted cause phase subject) := by
  obtain ⟨-, -, -, -, -, -, same, swapped, plans, -⟩ := s.enterHalted_spec cause phase subject
  by_cases pending : s.plans.commitPending = true
  · obtain ⟨table, edges, -⟩ := swapped pending
    refine .of_handedOver plans (by rw [edges, if_pos pending]) ?_
    rw [if_pos pending, Monitor.windows, table, List.map_map]
    exact List.map_id' _
  · obtain ⟨table, edges, -⟩ := same (by simpa using pending)
    refine .of_handedOver plans (by rw [edges, if_neg pending]) ?_
    rw [if_neg pending, Monitor.windows, table]
    exact Monitor.abandon_windows _

theorem State.startRun_plansKept (s : State) (count : Nat) : s.PlansKept (s.startRun count) := by
  cases source : s.block.source with
  | internal =>
    rw [State.startRun_internal source]
    exact State.PlansKept.trans (t := { s with seq := s.seq.ranFor count }) (.of_same rfl rfl rfl)
      (State.cycleStart_plansKept _)
  | triggered =>
    rw [State.startRun_triggered source]
    exact .of_same rfl rfl rfl

/-! ## Happenings of the cycle and the lines -/

theorem State.closeWindows_plansKept (s : State) (phase : Nat) : s.PlansKept (s.closeWindows phase) :=
  .of_same (windows := by rw [State.closeWindows_eq]; simp)

theorem State.closeAndReport_plansKept (s : State) (phase : Nat) : s.PlansKept (s.closeAndReport phase) := by
  have reports (ws : List Window) (u : State) : u.PlansKept (ws.foldl State.missReport u) := by
    induction ws generalizing u with
    | nil => exact .refl u
    | cons w ws ih =>
      refine State.PlansKept.trans ?_ (ih _)
      unfold State.missReport
      split
      · exact u.enterHalted_plansKept _ _ _
      · exact .refl u
  exact (s.closeWindows_plansKept phase).trans (reports _ _)

theorem State.endCycle_plansKept (s : State) : s.PlansKept s.endCycle := by
  have after (u : State) : u.PlansKept u.afterCloses := by
    let left : State := { u with monitor := { u.monitor with inProgress := false } }
    have ended : u.PlansKept left := .of_same rfl rfl rfl
    unfold State.afterCloses
    dsimp only
    split
    · exact ended.trans (left.enterHalted_plansKept _ _ _)
    · split
      · exact ended.trans (left.enterHalted_plansKept _ _ _)
      · split
        · exact ended.trans left.cycleStart_plansKept
        · exact ended.trans (.of_same rfl rfl rfl)
  have closed := s.closeAndReport_plansKept s.block.length
  unfold State.endCycle
  dsimp only
  split
  · exact closed.trans (after _)
  · exact closed

theorem State.cut_plansKept (s : State) : s.PlansKept s.cut := by
  have cut : s.PlansKept s.cutFrom := .of_same rfl rfl s.monitor.abandon_windows
  rw [State.cut_eq]
  split
  · exact cut.trans (s.cutFrom.enterHalted_plansKept _ _ _)
  · split
    · exact cut.trans (s.cutFrom.enterHalted_plansKept _ _ _)
    · exact cut.trans s.cutFrom.cycleStart_plansKept

theorem State.controllerTakes_plansKept (s : State) (i : Fin 4) (d : Slope) : s.PlansKept (s.controllerTakes i d) := by
  unfold State.controllerTakes
  split
  · exact .refl s
  · exact s.cycleStart_plansKept
  · exact .of_same
  · exact s.cut_plansKept
  · exact s.cut_plansKept

theorem State.inputEdges_plansKept (s : State) (i : Fin 4) (d : Slope) : s.PlansKept (s.inputEdges i d) := by
  have seen (u : State) : u.PlansKept (u.monitorTakes i d) := .of_same rfl rfl (Monitor.meet_windows _ _ _ _)
  have told (before after : State) (window : Option Nat) :
      after.PlansKept (State.captureEdge before after i d window) := by
    unfold State.captureEdge
    split
    · exact .of_same
    · exact .refl after
  let settled : State := { s.onInput i Filter.settle with choices := s.choices + 1 }
  have settles : s.PlansKept settled := .of_same rfl rfl rfl
  have takes (first : Bool) : settled.PlansKept (settled.takeInputEdge i d first) := by
    unfold State.takeInputEdge
    split
    · exact (seen _).trans ((State.controllerTakes_plansKept _ i d).trans (told _ _ _))
    · exact (State.controllerTakes_plansKept _ i d).trans ((seen _).trans (told _ _ _))
  exact settles.trans (takes _)

theorem State.lapses_plansKept (s : State) : s.PlansKept s.lapses := by
  have closed : s.PlansKept s.closeSession := .of_same
  unfold State.lapses
  dsimp only
  split
  · exact closed.trans (State.enterHalted_plansKept _ _ _ _)
  · exact closed

theorem State.starves_plansKept (s : State) : s.PlansKept s.starves := by
  have told : s.PlansKept (State.raise { s with seq := { s.seq with wait := none } } (.merging .starved s.seq.cycle)) :=
    .of_same rfl rfl rfl
  unfold State.starves
  dsimp only
  split
  · exact told
  · exact told.trans (State.enterHalted_plansKept _ _ _ _)

theorem State.stops_plansKept (s : State) : s.PlansKept s.stops := by
  have quiet : s.PlansKept (s.settleStop.onChannels Channel.stopped) := .of_same
  unfold State.stops
  dsimp only
  split
  · exact quiet.trans (State.enterHalted_plansKept _ _ _ _)
  · exact quiet

/-! ## Start-up (R50, R126 to R131) -/

theorem State.readProfile_inRange {s : State} {e : DirEntry} {p : Plan} (h : s.readProfile e = some p) : p.inRange := by
  unfold State.readProfile at h
  split at h
  · cases h
  · dsimp only at h
    split at h
    · exact Plan.ofBytes_inRange h
    · cases h

/-- Stage 4 installs a plan in range that passes the checks, or none (R50, R128). -/
theorem State.install_plansKept {s : State} {p : Plan} (passes : p.failure = none) (range : p.inRange) :
    s.PlansKept (s.install p) :=
  ⟨fun _ => ⟨passes, rfl, Monitor.withTable_windows _ _, fun _ => ⟨passes, rfl⟩⟩, fun _ => ⟨range, range⟩⟩

theorem State.bootFrom_plansKept (s : State) (slot : Fin 8) : s.PlansKept (s.bootFrom slot) := by
  unfold State.bootFrom
  split
  · exact .of_same
  · split
    · exact .of_same
    · rename_i read
      split
      · exact .of_same
      · rename_i passes
        exact (State.install_plansKept (by simpa using passes) (State.readProfile_inRange read)).trans .of_same

theorem State.bootLoad_plansKept (s : State) : s.PlansKept s.bootLoad := by
  have chosen (choice : Bool) : s.PlansKept (s.keepAutoRun choice) := .of_same
  unfold State.bootLoad
  split
  · exact (chosen _).trans (State.bootFrom_plansKept _ _)
  · exact (chosen false).trans .of_same

theorem State.runStage_plansKept (s : State) : s.PlansKept s.runStage := by
  have run : s.PlansKept s.autoRunStage := by
    let decided : State := { s with startup := { s.startup with autoResult := s.autoDecision } }
    have decides : s.PlansKept decided := .of_same rfl rfl rfl
    unfold State.autoRunStage
    dsimp only
    split
    · exact decides.trans (decided.startRun_plansKept 0)
    · exact decides
  exact run.trans (State.PlansKept.arbitrated .of_same)

theorem State.scanEnds_plansKept (s : State) (found : Directory) (report : ScanReport) :
    s.PlansKept (s.scanEnds found report) := by
  have booted : s.PlansKept (s.scanDone found report).bootLoad.applyChannelBlock :=
    State.PlansKept.trans (t := s.scanDone found report) .of_same ((State.bootLoad_plansKept _).trans .of_same)
  unfold State.scanEnds
  dsimp only
  split
  · exact booted.trans (State.runStage_plansKept _)
  · exact booted

theorem Plan.empty_inRange : Plan.empty.inRange :=
  ⟨by decide, by decide, by decide, by decide, by decide, by decide, by decide, nofun, nofun, .nil⟩

/-- A reset leaves the empty plan, which passes the checks and lies in the ranges (R24, R123). -/
theorem State.resetBy_plans (s : State) (cause : ResetCause) (torn : List Host.Cell) (powered : Bool) :
    (s.resetBy cause torn powered).plansOk ∧ (s.resetBy cause torn powered).rangesOk :=
  ⟨⟨(by decide : Plan.empty.failure = none), rfl, rfl, nofun⟩, Plan.empty_inRange, Plan.empty_inRange⟩

/-! ## Fields of requests and their ranges (R25 to R28) -/

theorem firstBad_eq_none {fields : List (Nat × Bool)} : firstBad fields = none ↔ ∀ k b, (k, b) ∈ fields → b = true := by
  simp [firstBad]

/-- The refusal names the lowest field that is out of range (R25). -/
theorem firstBad_eq_some {fields : List (Nat × Bool)} (ascending : fields.Pairwise fun f g => f.1 < g.1) {k : Nat}
    (bad : (k, false) ∈ fields) (before : ∀ j, j < k → ∀ b, (j, b) ∈ fields → b = true) :
    firstBad fields = some k := by
  obtain ⟨front, back, rfl⟩ := List.append_of_mem bad
  have good : ∀ f ∈ front, ¬ (!f.2) = true := by
    intro f mem
    have lower : f.1 < k := (List.pairwise_append.mp ascending).2.2 f mem (k, false) (by simp)
    simpa using before f.1 lower f.2 (by simp [mem])
  unfold firstBad
  rw [List.find?_append, List.find?_eq_none.mpr good]
  simp

theorem absentOr_iff {ok : Nat → Bool} {field : Option Nat} :
    absentOr ok field = true ↔ ∀ n, field = some n → ok n = true := by
  cases field <;> simp [absentOr]

theorem Source.ofCode_isSome {n : Nat} : (Source.ofCode n).isSome = true ↔ n ≤ 1 := by
  rcases n with _ | _ | n <;> simp [Source.ofCode]

theorem StartEdge.ofCode_isSome {n : Nat} : (StartEdge.ofCode n).isSome = true ↔ n ≤ 1 := by
  rcases n with _ | _ | n <;> simp [StartEdge.ofCode]

theorem Policy.ofCode_isSome {n : Nat} : (Policy.ofCode n).isSome = true ↔ n ≤ 1 := by
  rcases n with _ | _ | n <;> simp [Policy.ofCode]

theorem Sense.ofCode_isSome {n : Nat} : (Sense.ofCode n).isSome = true ↔ n ≤ 1 := by
  rcases n with _ | _ | n <;> simp [Sense.ofCode]

theorem Use.ofCode_isSome {n : Nat} : (Use.ofCode n).isSome = true ↔ n ≤ 1 := by
  rcases n with _ | _ | n <;> simp [Use.ofCode]

theorem CaptureEdges.ofCode_isSome {n : Nat} : (CaptureEdges.ofCode n).isSome = true ↔ n ≤ 3 := by
  rcases n with _ | _ | _ | _ | n <;> simp [CaptureEdges.ofCode]

/-- The fields of PLAN_SET_CYCLE by their index, with whether each is in range (R26). -/
def SetCycle.fields (c : SetCycle) : List (Nat × Bool) :=
  [(1, absentOr (fun n => (Source.ofCode n).isSome) c.source),
   (2, absentOr (fun n => decide (100 ≤ n ∧ n ≤ 16777215)) c.length),
   (3, absentOr (fun n => decide (n ≤ 16777215)) c.guard),
   (4, absentOr (fun n => decide (n < 4)) c.startInput),
   (5, absentOr (fun n => (StartEdge.ofCode n).isSome) c.startEdge),
   (6, absentOr (fun n => decide (n ≤ 65535)) c.starveLimit),
   (7, absentOr (fun n => (Policy.ofCode n).isSome) c.starvePolicy)]

/-- A field of PLAN_SET_CYCLE, by its index, is absent or in the range of R26. -/
def SetCycle.fieldOk (c : SetCycle) (k : Nat) : Prop :=
  (k = 1 → ∀ n, c.source = some n → n ≤ 1) ∧ (k = 2 → ∀ n, c.length = some n → 100 ≤ n ∧ n ≤ 16777215) ∧
    (k = 3 → ∀ n, c.guard = some n → n ≤ 16777215) ∧ (k = 4 → ∀ n, c.startInput = some n → n ≤ 3) ∧
    (k = 5 → ∀ n, c.startEdge = some n → n ≤ 1) ∧ (k = 6 → ∀ n, c.starveLimit = some n → n ≤ 65535) ∧
    (k = 7 → ∀ n, c.starvePolicy = some n → n ≤ 1)

theorem SetCycle.bad_eq (c : SetCycle) : c.bad = firstBad c.fields := rfl

theorem SetCycle.fieldOk_iff (c : SetCycle) (k : Nat) : c.fieldOk k ↔ ∀ b, (k, b) ∈ c.fields → b = true := by
  simp only [SetCycle.fieldOk, SetCycle.fields, List.mem_cons, Prod.mk.injEq, List.not_mem_nil, or_false, or_imp,
    forall_and, and_imp, forall_eq_apply_imp_iff, absentOr_iff, Source.ofCode_isSome,
    StartEdge.ofCode_isSome, Policy.ofCode_isSome, decide_eq_true_eq, Nat.lt_succ_iff]

theorem SetCycle.bad_eq_none {c : SetCycle} : c.bad = none ↔ ∀ k, c.fieldOk k := by
  simp only [SetCycle.bad_eq, firstBad_eq_none, SetCycle.fieldOk_iff]

theorem SetCycle.bad_eq_some {c : SetCycle} {k : Nat} (bad : ¬ c.fieldOk k) (before : ∀ j, j < k → c.fieldOk j) :
    c.bad = some k := by
  rw [SetCycle.fieldOk_iff] at bad
  push Not at bad
  obtain ⟨b, mem, false'⟩ := bad
  obtain rfl : b = false := by simpa using false'
  exact firstBad_eq_some (by simp) mem fun j lower => (c.fieldOk_iff j).mp (before j lower)

/-! ## Requests (R25 to R49, R116) -/

theorem Answer.reply_plansKept (x : Answer) (code : Nat) (q : Req) : x.state.PlansKept (x.reply code q) := by
  unfold Answer.reply
  exact .of_same

theorem State.examine_plansKept (s : State) (code : Nat) (q : Req) (execute : State → Answer)
    (owns : ∀ u : State, u.PlansKept (execute u).state) : s.PlansKept (s.examine code q execute) := by
  unfold State.examine
  split
  · exact .of_same
  · split
    · exact .of_same
    · split
      · exact .of_same
      · have found : s.PlansKept (s.uncache code q) := .of_same
        exact found.trans ((owns _).trans (Answer.reply_plansKept _ code q))

theorem State.takeRequest_plansKept (s : State) (code : Nat) (q : Req) (execute : State → Answer)
    (owns : ∀ u : State, u.PlansKept (execute u).state) :
    s.PlansKept (s.takeRequest code q fun t => t.examine code q execute) := by
  have taken : s.PlansKept s.cleared := .of_same
  unfold State.takeRequest
  split
  · split
    · split
      · exact taken.trans (s.cleared.examine_plansKept code q execute owns)
      · exact .of_same
    · exact .of_same
  · exact .refl s

/-- A request keeps the plans if its owner keeps them. -/
theorem requestStep_plansKept {π : Type} {code : Nat} {read : List Byte → Option π} {owner : π → State → Answer} {q : Req}
    {s t : State} (h : requestStep code read owner q s = .next t)
    (owns : ∀ (p : π) (u : State), u.PlansKept (owner p u).state) : s.PlansKept t := by
  cases h
  refine s.takeRequest_plansKept code q _ fun u => ?_
  unfold executeWith
  split
  · exact .refl u
  · exact owns _ u

/-- An edit is made with no commit pending and its fields in range alone (R25). -/
theorem edit_plansKept {s : State} {bad : Option Nat} {rest : Answer}
    (h : s.plans.commitPending = false → bad = none → s.PlansKept rest.state) : s.PlansKept (edit s bad rest).state := by
  unfold edit
  split
  · exact .refl s
  · rename_i none
    split
    · exact .refl s
    · exact h (by simpa using none) rfl

/-- The present fields in range put in a block in range make one (R26). -/
theorem SetCycle.onto_ranges {c : SetCycle} (good : c.bad = none) {p : Plan} (range : p.inRange) :
    ({ p with cycle := c.onto p.cycle } : Plan).inRange := by
  obtain ⟨lengthLow, lengthTop, guardTop, starveTop, rest⟩ := range
  have ok := SetCycle.bad_eq_none.mp good
  have length := (ok 2).2.1 rfl
  have guard := (ok 3).2.2.1 rfl
  have starve := (ok 6).2.2.2.2.2.1 rfl
  refine ⟨?_, ?_, ?_, ?_, rest⟩ <;> simp only [SetCycle.onto]
  · cases field : c.length with
    | none => exact lengthLow
    | some n => exact (length n field).1
  · cases field : c.length with
    | none => exact lengthTop
    | some n => exact (length n field).2
  · cases field : c.guard with
    | none => exact guardTop
    | some n => exact guard n field
  · cases field : c.starveLimit with
    | none => exact starveTop
    | some n => exact starve n field

theorem planSetCycleOwner_plansKept (c : SetCycle) (s : State) : s.PlansKept (planSetCycleOwner c s).state :=
  edit_plansKept fun none good => State.stage_plansKept none fun ok => SetCycle.onto_ranges good ok.1

theorem planSetChannelOwner_plansKept (c : SetPair) (s : State) : s.PlansKept (planSetChannelOwner c s).state := by
  refine edit_plansKept fun none _ => ?_
  split
  · exact State.stage_plansKept none fun ok => ok.1
  · exact .refl s

/-- A depth in range in one record leaves every depth in range (R28). -/
theorem SetPair.ontoInput_ranges {c : SetPair} (good : c.badInput = none) {p : Plan} (range : p.inRange) (i : Fin 4) :
    ({ p with inputs := p.inputs.modify i c.ontoInput } : Plan).inRange := by
  obtain ⟨lengthLow, lengthTop, guardTop, starveTop, depths, rest⟩ := range
  refine ⟨lengthLow, lengthTop, guardTop, starveTop, fun j => ?_, rest⟩
  have depth := firstBad_eq_none.mp good 2 _ (by simp; rfl)
  simp only [absentOr_iff, decide_eq_true_eq] at depth
  rw [Row.get_modify]
  split
  · cases field : c.first with
    | none => simpa [SetPair.ontoInput, field] using depths j
    | some n => simpa [SetPair.ontoInput, field] using depth n field
  · exact depths j

theorem planSetInputOwner_plansKept (c : SetPair) (s : State) : s.PlansKept (planSetInputOwner c s).state := by
  refine edit_plansKept fun none good => ?_
  split
  · exact State.stage_plansKept none fun ok => SetPair.ontoInput_ranges good ok.1 _
  · exact .refl s

theorem mem_insertEntry (e x : Entry) (es : List Entry) : x ∈ insertEntry e es ↔ x = e ∨ x ∈ es := by
  induction es with
  | nil => simp [insertEntry]
  | cons y es ih =>
    unfold insertEntry
    split <;> simp [ih, or_left_comm]

theorem insertEntry_length (e : Entry) (es : List Entry) : (insertEntry e es).length = es.length + 1 := by
  induction es with
  | nil => rfl
  | cons x es ih =>
    unfold insertEntry
    split <;> simp [ih]

theorem insertEntry_ranges {e : Entry} (new : e.inRange) {p : Plan} (room : p.entries.length < 64) (range : p.inRange) :
    ({ p with entries := insertEntry e p.entries } : Plan).inRange := by
  obtain ⟨lengthLow, lengthTop, guardTop, starveTop, depths, -, windowTop, entriesOk, windowsOk⟩ := range
  refine ⟨lengthLow, lengthTop, guardTop, starveTop, depths, ?_, windowTop, fun x mem => ?_, windowsOk⟩
  · show (insertEntry e p.entries).length ≤ 64
    rw [insertEntry_length]
    omega
  · rcases (mem_insertEntry e x p.entries).mp mem with rfl | mem
    · exact new
    · exact entriesOk x mem

theorem insertWindow_ranges {w : Window} (new : w.inRange) {p : Plan} (room : p.windows.length < 8) (range : p.inRange) :
    ({ p with windows := insertWindow w p.windows } : Plan).inRange := by
  obtain ⟨lengthLow, lengthTop, guardTop, starveTop, depths, entryTop, -, entriesOk, windowsOk, ordered⟩ := range
  refine ⟨lengthLow, lengthTop, guardTop, starveTop, depths, entryTop, ?_, entriesOk, fun x mem => ?_,
    insertWindow_ordered w _ ordered⟩
  · show (insertWindow w p.windows).length ≤ 8
    rw [insertWindow_length]
    omega
  · rcases (mem_insertWindow w x p.windows).mp mem with rfl | mem
    · exact new
    · exact windowsOk x mem

theorem entryAddOwner_plansKept (raw : RawEntry) (s : State) : s.PlansKept (entryAddOwner raw s).state := by
  unfold entryAddOwner
  split
  · exact .refl s
  · rename_i none
    split
    · exact .refl s
    · rename_i fields
      split
      · exact .refl s
      · split
        · exact .refl s
        · rename_i room
          exact State.stage_plansKept (by simpa using none) fun ok =>
            insertEntry_ranges (RawEntry.check_iff.mp fields).2 (by simpa using room) ok.1

theorem windowAddOwner_plansKept (raw : RawWindow) (s : State) : s.PlansKept (windowAddOwner raw s).state := by
  unfold windowAddOwner
  split
  · exact .refl s
  · rename_i none
    split
    · exact .refl s
    · rename_i fields
      split
      · exact .refl s
      · split
        · exact .refl s
        · rename_i room
          exact State.stage_plansKept (by simpa using none) fun ok =>
            insertWindow_ranges (RawWindow.check_iff.mp fields).2 (by simpa using room) ok.1

theorem filterEntries_ranges {p : Plan} (keep : Entry → Bool) (range : p.inRange) :
    ({ p with entries := p.entries.filter keep } : Plan).inRange := by
  obtain ⟨lengthLow, lengthTop, guardTop, starveTop, depths, entryTop, windowTop, entriesOk, windowsOk⟩ := range
  exact ⟨lengthLow, lengthTop, guardTop, starveTop, depths, (List.length_filter_le _ _).trans entryTop, windowTop,
    fun x mem => entriesOk x (List.mem_of_mem_filter mem), windowsOk⟩

theorem filterWindows_ranges {p : Plan} (keep : Window → Bool) (range : p.inRange) :
    ({ p with windows := p.windows.filter keep } : Plan).inRange := by
  obtain ⟨lengthLow, lengthTop, guardTop, starveTop, depths, entryTop, windowTop, entriesOk, windowsOk, ordered⟩ := range
  exact ⟨lengthLow, lengthTop, guardTop, starveTop, depths, entryTop, (List.length_filter_le _ _).trans windowTop,
    entriesOk, fun x mem => windowsOk x (List.mem_of_mem_filter mem), ordered.filter _⟩

theorem entryRemoveOwner_plansKept (id : Nat) (s : State) : s.PlansKept (entryRemoveOwner id s).state := by
  refine edit_plansKept fun none _ => ?_
  split
  · exact State.stage_plansKept none fun ok => filterEntries_ranges _ ok.1
  · exact .refl s

theorem windowRemoveOwner_plansKept (id : Nat) (s : State) : s.PlansKept (windowRemoveOwner id s).state := by
  refine edit_plansKept fun none _ => ?_
  split
  · exact State.stage_plansKept none fun ok => filterWindows_ranges _ ok.1
  · exact .refl s

theorem planClearOwner_plansKept (p : Unit) (s : State) : s.PlansKept (planClearOwner p s).state :=
  edit_plansKept fun none _ => State.stage_plansKept none fun _ => Plan.empty_inRange

theorem planCopyActiveOwner_plansKept (p : Unit) (s : State) : s.PlansKept (planCopyActiveOwner p s).state :=
  edit_plansKept fun none _ => State.stage_plansKept none fun ok => ok.2

theorem profileLoadOwner_plansKept (n : Nat) (s : State) : s.PlansKept (profileLoadOwner n s).state := by
  unfold profileLoadOwner
  split
  · exact .refl s
  · split
    · exact .refl s
    · split
      · exact .refl s
      · rename_i none
        split
        · exact .refl s
        · unfold State.loadEntry
          split
          · rename_i read
            exact State.stage_plansKept (by simpa using none) fun _ => State.readProfile_inRange read
          · exact .refl s

/-! ## Commits (R46 to R49) -/

theorem State.swap_plansKept {s : State} (passes : s.plans.staged.failure = none)
    (expanded : s.plans.stagedTimeline = s.plans.staged.expand) : s.PlansKept s.swap :=
  ⟨fun _ => ⟨passes, expanded, Monitor.withTable_windows _ _, fun _ => ⟨passes, expanded⟩⟩, fun ok => ⟨ok.1, ok.1⟩⟩

theorem State.setOutcome_plansKept (s : State) (o : CommitOutcome) : s.PlansKept (s.setOutcome o) := ⟨id, id⟩

/-- A plan that passes the checks waits with its expansion, or is swapped in with it (R46). -/
theorem State.commit_plansKept {s : State} (none : s.plans.commitPending = false)
    (passes : s.plans.staged.failure = .none) : s.PlansKept s.commit.state := by
  unfold State.commit
  dsimp only
  split
  · refine ⟨fun ok => ?_, id⟩
    obtain ⟨checked, edges, windows, -⟩ := ok
    exact ⟨checked, edges, windows, fun _ => ⟨passes, rfl⟩⟩
  · let expanded : State := { s with plans := { s.plans with stagedTimeline := s.staged.expand } }
    have expands : s.PlansKept expanded := by
      refine ⟨fun ok => ?_, id⟩
      obtain ⟨checked, edges, windows, -⟩ := ok
      exact ⟨checked, edges, windows, fun pending => nomatch none.symm.trans pending⟩
    have swaps : expanded.PlansKept expanded.swap := State.swap_plansKept passes rfl
    exact expands.trans (swaps.trans (State.setOutcome_plansKept _ _))

theorem planCommitOwner_plansKept (p : Unit) (s : State) : s.PlansKept (planCommitOwner p s).state := by
  have outcome := s.setOutcome_plansKept .none
  unfold planCommitOwner
  split
  · exact .refl s
  · rename_i none
    split
    · exact outcome
    · rename_i passes
      exact outcome.trans (State.commit_plansKept (by simpa [State.setOutcome] using none) passes)

theorem planAbandonOwner_plansKept (p : Unit) (s : State) : s.PlansKept (planAbandonOwner p s).state := by
  unfold planAbandonOwner
  split
  · refine ⟨fun ok => ?_, id⟩
    obtain ⟨checked, edges, windows, -⟩ := ok
    exact ⟨checked, edges, windows, nofun⟩
  all_goals exact .refl s

/-! ## Requests that leave the plans alone -/

theorem runOwner_plansKept (count : Nat) (s : State) : s.PlansKept (runOwner count s).state := by
  unfold runOwner
  split
  · exact .refl s
  · split
    · exact .refl s
    · split
      · exact s.startRun_plansKept count
      · exact .refl s

theorem finishOwner_plansKept (p : Unit) (s : State) : s.PlansKept (finishOwner p s).state := by
  unfold finishOwner
  split
  · exact .of_same rfl rfl rfl
  · exact s.enterHalted_plansKept _ _ _
  · exact s.enterHalted_plansKept _ _ _
  · exact .refl s
  · exact .refl s

theorem haltOwner_plansKept (p : Unit) (s : State) : s.PlansKept (haltOwner p s).state := by
  unfold haltOwner
  split
  · exact s.enterHalted_plansKept _ _ _
  · exact .refl s

@[simp] theorem refuse_state (s : State) (status : Status) : (refuse s status).state = s := rfl

theorem channelHoldOwner_plansKept (c : Nat) (s : State) : s.PlansKept (channelHoldOwner c s).state := by
  unfold channelHoldOwner
  (repeat' split) <;> exact .of_same

theorem heldIdle_plansKept {s taken : State} (i : Fin 8) (h : s.PlansKept taken) :
    s.PlansKept (heldIdle s i taken).state := by
  unfold heldIdle
  split
  · exact .refl s
  · split
    · exact .refl s
    · split
      · exact .refl s
      · exact h

theorem channelSetOwner_plansKept (f : Nat × Nat) (s : State) : s.PlansKept (channelSetOwner f s).state := by
  unfold channelSetOwner
  split
  · exact .refl s
  · exact .refl s
  · exact heldIdle_plansKept _ .of_same

theorem channelPulseOwner_plansKept (f : Nat × Nat) (s : State) : s.PlansKept (channelPulseOwner f s).state := by
  unfold channelPulseOwner
  split
  · exact .refl s
  · split
    · exact .refl s
    · exact heldIdle_plansKept _ .of_same

theorem channelReleaseOwner_plansKept (c : Nat) (s : State) : s.PlansKept (channelReleaseOwner c s).state := by
  unfold channelReleaseOwner
  split <;> exact .of_same

theorem captureReadOwner_plansKept (n : Nat) (s : State) : s.PlansKept (captureReadOwner n s).state := by
  unfold captureReadOwner
  split <;> exact .of_same

theorem captureWatermarkOwner_plansKept (n : Nat) (s : State) : s.PlansKept (captureWatermarkOwner n s).state := by
  unfold captureWatermarkOwner
  split <;> exact .of_same

theorem writing_plansKept {s : State} (bad : Option Nat) {rest : Answer} (h : s.PlansKept rest.state) :
    s.PlansKept (writing s bad rest).state := by
  unfold writing
  split
  · exact .refl s
  · split
    · exact .refl s
    · split
      · exact .refl s
      · exact h

theorem profileSaveOwner_plansKept (f : Nat × List Byte) (s : State) : s.PlansKept (profileSaveOwner f s).state := by
  refine writing_plansKept _ ?_
  split <;> exact .of_same

theorem profileDeleteOwner_plansKept (n : Nat) (s : State) : s.PlansKept (profileDeleteOwner n s).state := by
  unfold profileDeleteOwner
  split
  · exact .refl s
  · refine writing_plansKept _ ?_
    split <;> exact .of_same

theorem bootSetOwner_plansKept (f : Nat × Nat) (s : State) : s.PlansKept (bootSetOwner f s).state := by
  have selects (selected : Option (Fin 8)) (auto : Bool) : s.PlansKept (s.selectBoot selected auto).state := by
    unfold State.selectBoot
    exact .of_same
  unfold bootSetOwner
  split
  · exact .refl s
  · refine writing_plansKept _ ?_
    split
    · exact selects _ _
    · split
      · exact selects _ _
      · exact .refl s

theorem storeFormatOwner_plansKept (p : Unit) (s : State) : s.PlansKept (storeFormatOwner p s).state := by
  unfold storeFormatOwner
  (repeat' split) <;> exact .of_same

theorem restartOwner_plansKept (p : Unit) (s : State) : s.PlansKept (restartOwner p s).state := by
  unfold restartOwner
  split <;> exact .of_same

theorem helloOwner_plansKept (h : Hello) (s : State) : s.PlansKept (helloOwner h s).state := by
  unfold helloOwner
  (repeat' split) <;> exact .of_same

/-- COUNTERS_CLEAR clears counters alone (R158). -/
theorem countersClearOwner_plansKept (n : Nat) (s : State) : s.PlansKept (countersClearOwner n s).state := by
  unfold countersClearOwner
  split
  · exact .refl s
  · rename_i g _
    cases g <;> exact .of_same rfl rfl rfl

/-- A report leaves the state as it was. -/
theorem report_plansKept {x : Answer} {s : State} (h : x.state = s) : s.PlansKept x.state := h ▸ .refl s

theorem planReadOwner_state (n : Nat) (s : State) : (planReadOwner n s).state = s := by
  unfold planReadOwner
  split <;> rfl

theorem entryListOwner_state (f : Nat × Nat) (s : State) : (entryListOwner f s).state = s := by
  unfold entryListOwner
  (repeat' split) <;> rfl

theorem windowListOwner_state (f : Nat × Nat) (s : State) : (windowListOwner f s).state = s := by
  unfold windowListOwner
  (repeat' split) <;> rfl

theorem planCheckOwner_state (p : Unit) (s : State) : (planCheckOwner p s).state = s := by
  unfold planCheckOwner
  split <;> rfl

theorem countersReadOwner_state (n : Nat) (s : State) : (countersReadOwner n s).state = s := by
  unfold countersReadOwner
  split <;> rfl

/-! ## Commands -/

/-- A happening that takes effect only when it is due keeps the plans if its effect keeps them. -/
theorem plansKept_of_due {s effect t : State} {due : Bool}
    (h : (.next (if due then effect else s) : Host.Outcome State Fault Refusal) = .next t)
    (kept : s.PlansKept effect) : s.PlansKept t := by
  cases h
  split
  · exact kept
  · exact .refl s

theorem execProgramStepEnd_plansKept {faults : List Host.Cell} {s t : State} (h : execProgramStepEnd faults s = .next t) :
    s.PlansKept t := by
  unfold execProgramStepEnd at h
  split at h
  · cases h; exact .refl s
  · split at h
    · cases h; exact .refl s
    · split at h
      · cases h; exact .refl s
      · split at h
        · cases h; exact .refl s
        · split at h <;> cases h
          exact .of_same

theorem execEraseEnd_plansKept {faults : List Host.Cell} {s t : State} (h : execEraseEnd faults s = .next t) :
    s.PlansKept t := by
  cases h
  split
  · split
    · exact .refl s
    · split
      · exact .refl s
      · split
        · exact .of_same
        · exact .refl s
  · exact .refl s

/-- The end of a frame resets the part behind a RESTART's reply, and leaves the plans alone otherwise (R124, R142). -/
theorem execTransmitFrameEnd_plans {s t : State} (h : execTransmitFrameEnd s = .next t) :
    t = s.resetBy .restart [] true ∨ s.PlansKept t := by
  have left (owner : TxOwner) : s.frameLeft owner = s.resetBy .restart [] true ∨ s.PlansKept (s.frameLeft owner) := by
    cases owner with
    | notice number => exact .inr (.of_same rfl rfl rfl)
    | reply code status =>
      unfold State.frameLeft State.replyLeft
      dsimp only
      split
      · exact .inr (.of_same rfl rfl rfl)
      · split
        · exact .inl rfl
        · exact .inr .of_same
  unfold execTransmitFrameEnd at h
  cases h
  split
  · split
    · rename_i owner _ _ _
      rcases left owner with reset | kept
      · rw [reset, State.resetBy_sends]
        exact .inl rfl
      · exact .inr (kept.trans (State.PlansKept.arbitrated .of_same))
    · exact .inr (.refl s)
  · exact .inr (.refl s)

theorem execTimelineEdge_plansKept {s t : State} (h : execTimelineEdge s = .next t) : s.PlansKept t := by
  cases h
  split
  · split
    · exact .of_same (edges := (s.takeEdge_timeline _).1)
    · exact .refl s
  · exact .refl s

theorem execStoreScanEnd_plansKept {s t : State} (h : execStoreScanEnd s = .next t) : s.PlansKept t := by
  cases h
  split
  · exact s.scanEnds_plansKept _ _
  · exact .refl s

theorem execRawLineChange_plansKept {line : Line} {level : Wire} {s t : State}
    (h : execRawLineChange line level s = .next t) : s.PlansKept t := by
  cases h
  cases line <;> exact .of_same rfl rfl rfl

/-- Every command resets the part, or keeps the plans (R123). -/
theorem exec_plans {c : Instr} {s t : State} (h : exec c s = .next t) :
    (∃ cause torn powered, t = s.resetBy cause torn powered) ∨ s.PlansKept t := by
  cases c
  case run q => exact .inr (requestStep_plansKept h runOwner_plansKept)
  case finish q => exact .inr (requestStep_plansKept h finishOwner_plansKept)
  case halt q => exact .inr (requestStep_plansKept h haltOwner_plansKept)
  case planSetCycle q => exact .inr (requestStep_plansKept h planSetCycleOwner_plansKept)
  case planSetChannel q => exact .inr (requestStep_plansKept h planSetChannelOwner_plansKept)
  case planSetInput q => exact .inr (requestStep_plansKept h planSetInputOwner_plansKept)
  case entryAdd q => exact .inr (requestStep_plansKept h entryAddOwner_plansKept)
  case entryRemove q => exact .inr (requestStep_plansKept h entryRemoveOwner_plansKept)
  case windowAdd q => exact .inr (requestStep_plansKept h windowAddOwner_plansKept)
  case windowRemove q => exact .inr (requestStep_plansKept h windowRemoveOwner_plansKept)
  case planClear q => exact .inr (requestStep_plansKept h planClearOwner_plansKept)
  case planCopyActive q => exact .inr (requestStep_plansKept h planCopyActiveOwner_plansKept)
  case planRead q => exact .inr (requestStep_plansKept h fun p u => report_plansKept (planReadOwner_state p u))
  case entryList q => exact .inr (requestStep_plansKept h fun p u => report_plansKept (entryListOwner_state p u))
  case windowList q => exact .inr (requestStep_plansKept h fun p u => report_plansKept (windowListOwner_state p u))
  case planCheck q => exact .inr (requestStep_plansKept h fun p u => report_plansKept (planCheckOwner_state p u))
  case planCommit q => exact .inr (requestStep_plansKept h planCommitOwner_plansKept)
  case planAbandon q => exact .inr (requestStep_plansKept h planAbandonOwner_plansKept)
  case channelHold q => exact .inr (requestStep_plansKept h channelHoldOwner_plansKept)
  case channelSet q => exact .inr (requestStep_plansKept h channelSetOwner_plansKept)
  case channelPulse q => exact .inr (requestStep_plansKept h channelPulseOwner_plansKept)
  case channelRelease q => exact .inr (requestStep_plansKept h channelReleaseOwner_plansKept)
  case captureRead q => exact .inr (requestStep_plansKept h captureReadOwner_plansKept)
  case captureFlush q => exact .inr (requestStep_plansKept h fun _ _ => .of_same rfl rfl rfl)
  case captureWatermark q => exact .inr (requestStep_plansKept h captureWatermarkOwner_plansKept)
  case profileSave q => exact .inr (requestStep_plansKept h profileSaveOwner_plansKept)
  case profileDelete q => exact .inr (requestStep_plansKept h profileDeleteOwner_plansKept)
  case bootSet q => exact .inr (requestStep_plansKept h bootSetOwner_plansKept)
  case storeFormat q => exact .inr (requestStep_plansKept h storeFormatOwner_plansKept)
  case profileLoad q => exact .inr (requestStep_plansKept h profileLoadOwner_plansKept)
  case profileList q => exact .inr (requestStep_plansKept h fun _ _ => report_plansKept rfl)
  case storeStatus q => exact .inr (requestStep_plansKept h fun _ _ => report_plansKept rfl)
  case restart q => exact .inr (requestStep_plansKept h restartOwner_plansKept)
  case hello q => exact .inr (requestStep_plansKept h helloOwner_plansKept)
  case goodbye q => exact .inr (requestStep_plansKept h fun _ _ => .of_same rfl rfl rfl)
  case status q => exact .inr (requestStep_plansKept h fun _ _ => report_plansKept rfl)
  case countersRead q => exact .inr (requestStep_plansKept h fun p u => report_plansKept (countersReadOwner_state p u))
  case countersClear q => exact .inr (requestStep_plansKept h countersClearOwner_plansKept)
  case ack number => cases h; exact .inr .of_same
  case frameReceived bytes => exact .inr (plansKept_of_due h .of_same)
  case gapTimerExpiry => exact .inr (plansKept_of_due h .of_same)
  case transmitFrameEnd => exact (execTransmitFrameEnd_plans h).imp (fun reset => ⟨.restart, [], true, reset⟩) id
  case lapse => exact .inr (plansKept_of_due h s.lapses_plansKept.arbitrated)
  case resendTimerExpiry number => exact .inr (plansKept_of_due h .of_same)
  case inputEdge i d => exact .inr (plansKept_of_due h (s.inputEdges_plansKept i d).arbitrated)
  case stopAsserted => exact .inr (plansKept_of_due h s.stops_plansKept.arbitrated)
  case stopReleased => exact .inr (plansKept_of_due h .of_same)
  case timelineEdge => exact .inr (execTimelineEdge_plansKept h)
  case endOfCycle => exact .inr (plansKept_of_due h s.endCycle_plansKept.arbitrated)
  case windowOpen id => exact .inr (plansKept_of_due h .of_same)
  case windowClose => exact .inr (plansKept_of_due h (s.closeAndReport_plansKept _).arbitrated)
  case waitTimerExpiry => exact .inr (plansKept_of_due h s.starves_plansKept.arbitrated)
  case manualPulseExpiry c => exact .inr (plansKept_of_due h .of_same)
  case programStepEnd faults => exact .inr (execProgramStepEnd_plansKept h)
  case eraseEnd faults => exact .inr (execEraseEnd_plansKept h)
  case storeScanEnd => exact .inr (execStoreScanEnd_plansKept h)
  case powerUp torn => cases h; exact .inl ⟨_, _, _, rfl⟩
  case resetLine torn =>
    cases h
    split
    · exact .inl ⟨_, _, _, rfl⟩
    · exact .inr (.refl s)
  case resetEnd rate1 rate0 =>
    cases h
    split
    · exact .inr .of_same
    · exact .inr (.refl s)
  case characterReceived byte lineError => exact .inr (plansKept_of_due h .of_same)
  case rawLineChange line level => exact .inr (execRawLineChange_plansKept h)
  case powerLoss torn =>
    cases h
    split
    · exact .inl ⟨_, _, _, rfl⟩
    · exact .inr (.refl s)

/-! ## Steps -/

/-- One state follows another by a reset, or by something that keeps the plans. -/
def PlansFollow (s t : State) : Prop := (∃ u cause torn powered, t = State.resetBy u cause torn powered) ∨ s.PlansKept t

theorem PlansFollow.behind {s u t : State} (h : s.PlansKept u) (h' : PlansFollow u t) : PlansFollow s t :=
  h'.imp id h.trans

theorem exec_plansFollow {c : Instr} {s t : State} (h : exec c s = .next t) : PlansFollow s t :=
  (exec_plans h).imp (fun ⟨cause, torn, powered, reset⟩ => ⟨s, cause, torn, powered, reset⟩) id

theorem State.takeFrame_plansFollow {s t : State} {f : Frame} (h : s.takeFrame f = .next t) : PlansFollow s t := by
  unfold State.takeFrame at h
  split at h
  · split at h
    · exact exec_plansFollow h
    · split at h
      · exact exec_plansFollow h
      · cases h
        exact .inr (s.takeRequest_plansKept _ _ _ fun u => .refl u)
  · cases h
    exact .inr .of_same

theorem State.takeDue_plansFollow {s t : State} {d : Due} (h : s.takeDue d = .next t) : PlansFollow s t := by
  cases d with
  | command c => exact exec_plansFollow h
  | takeFrame f => exact State.takeFrame_plansFollow h
  | runStage => cases h; exact .inr s.runStage_plansKept

theorem State.idle_plansFollow {s t : State} (h : s.idle = .next t) : PlansFollow s t := by
  unfold State.idle at h
  split at h
  · split at h
    · cases h
      exact .inr .of_same
    · exact State.takeDue_plansFollow h
    · exact PlansFollow.behind (u := { s with choices := s.choices + 1 }) (.of_same rfl rfl rfl)
        (State.takeDue_plansFollow h)
  · cases h
    exact .inr (.refl s)

theorem step_plansFollow {s t : State} (h : step s = .next t) : PlansFollow s t := by
  unfold step at h
  split at h
  · exact State.idle_plansFollow h
  · rename_i rest _
    exact PlansFollow.behind (u := { s with pending := rest }) (.of_same rfl rfl rfl) (exec_plansFollow h)

/-- Settles O56: a reset leaves the empty plan, and every other step keeps the plans. -/
theorem everyStepKeepsThePlans : Obligations.EveryStepKeepsThePlans := by
  refine ⟨fun s t ok h => ?_, fun s t ok h => ?_⟩ <;>
    rcases step_plansFollow h with ⟨u, cause, torn, powered, rfl⟩ | kept
  · exact (u.resetBy_plans cause torn powered).1
  · exact kept.checked ok
  · exact (u.resetBy_plans cause torn powered).2
  · exact kept.ranged ok

end Sys2Proof.Machine

end

section
/-! The requests of the Plan Buffers (chapter 2): edits, reports, commits, and loads from the store. -/

set_option Elab.async false

namespace Sys2Proof.Machine

/-! ## Answers of the Plan Buffers -/

/-- A request whose owner leaves the state as it is: the reply carries what the owner says (R149). -/
theorem requestStep_reports {π : Type} {code : Nat} {read : List Byte → Option π} {owner : π → State → Answer} {q : Req}
    {s : State} {p : π} {c : Instr} {status : Status} {payload : List Byte}
    (hc : exec c s = requestStep code read owner q s) (h : s.ready code q) (hp : read q.params = some p)
    (reports : owner p (s.taken code q) = ⟨s.taken code q, status, payload, false⟩) :
    Answers c s code q s status payload := by
  have taken := s.taken_agrees code q
  exact requestStep_answers hc h hp (by rwa [reports]) (by rw [reports]) (by rw [reports]) (by rw [reports]; simp)

/-- A state with other Plan Buffers. -/
def State.withPlans (s : State) (b : PlanBuffers) : State := { s with plans := b }

/-- A request whose owner changes the Plan Buffers alone. -/
theorem requestStep_withPlans {π : Type} {code : Nat} {read : List Byte → Option π} {owner : π → State → Answer} {q : Req}
    {s : State} {p : π} {c : Instr} {b : PlanBuffers} {status : Status} {payload : List Byte}
    (hc : exec c s = requestStep code read owner q s) (h : s.ready code q) (hp : read q.params = some p)
    (answer : owner p (s.taken code q) = ⟨(s.taken code q).withPlans b, status, payload, false⟩) :
    Answers c s code q (s.withPlans b) status payload := by
  have agrees : ((s.taken code q).withPlans b).agrees (s.withPlans b) :=
    congrArg (fun t : State => t.withPlans b) (s.taken_agrees code q)
  exact requestStep_answers hc h hp (by rwa [answer]) (by rw [answer]) (by rw [answer])
    (by rw [answer]; simp [State.withPlans])

/-- A request whose owner stages a plan. -/
theorem requestStep_stages {π : Type} {code : Nat} {read : List Byte → Option π} {owner : π → State → Answer} {q : Req}
    {s : State} {p : π} {c : Instr} {new : Plan} (hc : exec c s = requestStep code read owner q s) (h : s.ready code q)
    (hp : read q.params = some p) (stages : owner p (s.taken code q) = okay ((s.taken code q).stage new)) :
    Answers c s code q { s with plans := { s.plans with staged := new } } .ok [] := by
  refine requestStep_withPlans (b := { s.plans with staged := new }) hc h hp (stages.trans ?_)
  simp [okay, State.stage, State.withPlans]

theorem readNothing_nil {params : List Byte} (h : params = []) : readNothing params = some () := by rw [h]; rfl

theorem readOne_singleton {params : List Byte} {b : Byte} (h : params = [b]) : readOne params = some b.toNat := by
  rw [h]; rfl

theorem readTwo_pair {params : List Byte} {a b : Byte} (h : params = [a, b]) :
    readTwo params = some (a.toNat, b.toNat) := by
  rw [h]; rfl

/-! ## The order of an edit's examination (R25) -/

theorem edit_pending {s : State} (h : s.plans.commitPending = true) (bad : Option Nat) (rest : Answer) :
    edit s bad rest = refuse s .commitPending := if_pos h

theorem edit_bad {s : State} (none : s.plans.commitPending = false) {bad : Option Nat} {k : Nat} (h : bad = some k)
    (rest : Answer) : edit s bad rest = refuse s (.badValue k) := by
  unfold edit
  rw [if_neg (by simp [none]), h]

theorem edit_good {s : State} (none : s.plans.commitPending = false) {bad : Option Nat} (h : bad = .none)
    (rest : Answer) : edit s bad rest = rest := by
  unfold edit
  rw [if_neg (by simp [none]), h]

/-- Settles O11: each edit's owner looks for a pending commit first. -/
theorem editsWaitForAPendingCommit : Obligations.EditsWaitForAPendingCommit := by
  intro s q pending
  have taken (code : Nat) : (s.taken code q).plans.commitPending = true := by simpa using pending
  exact ⟨fun _ ready read => requestStep_refused rfl ready read (edit_pending (taken 4) _ _),
    fun _ ready read => requestStep_refused rfl ready read (edit_pending (taken 5) _ _),
    fun _ ready read => requestStep_refused rfl ready read (edit_pending (taken 6) _ _),
    fun _ ready read => requestStep_refused (owner := entryAddOwner) rfl ready read (if_pos (taken 7)),
    fun _ ready read => requestStep_refused rfl ready read (edit_pending (taken 8) _ _),
    fun _ ready read => requestStep_refused (owner := windowAddOwner) rfl ready read (if_pos (taken 9)),
    fun _ ready read => requestStep_refused rfl ready read (edit_pending (taken 10) _ _)⟩

/-! ## PLAN_SET_CYCLE (R26) -/

/-- A present field in range takes its value's place, and an absent one leaves the value. -/
theorem code_getD {α : Type} {ofCode : Nat → Option α} {code : α → Nat} (decodes : ∀ n x, ofCode n = some x → n = code x)
    {field : Option Nat} (range : ∀ n, field = some n → (ofCode n).isSome = true) (kept : α) :
    code ((field.bind ofCode).getD kept) = field.getD (code kept) := by
  cases field with
  | none => rfl
  | some n =>
    obtain ⟨x, found⟩ := Option.isSome_iff_exists.mp (range n rfl)
    rw [Option.bind_some, found]
    exact (decodes n x found).symm

/-- Settles O6, by the lowest field out of range, if there is one. -/
theorem planSetCycleReplacesPresentFields : Obligations.PlanSetCycleReplacesPresentFields := by
  intro s q c ready read none
  have none' : (s.taken 4 q).plans.commitPending = false := by simpa using none
  refine ⟨fun good => ?_, fun k bad before => ?_⟩
  · have staged : (s.taken 4 q).staged = s.plans.staged := by simp [State.staged]
    have range := SetCycle.bad_eq_none.mpr good
    have stages := edit_good none' range
      (okay ((s.taken 4 q).stage { s.plans.staged with cycle := c.onto s.plans.staged.cycle }))
    refine ⟨c.onto s.plans.staged.cycle,
      requestStep_stages (owner := planSetCycleOwner) rfl ready read (by rw [planSetCycleOwner, staged, stages]), rfl, rfl,
      rfl, ?_, ?_, ?_, ?_⟩
    · exact code_getD (fun n x => Source.ofCode_iff.mp) (fun n h => Source.ofCode_isSome.mpr ((good 1).1 rfl n h)) _
    · refine code_getD (code := Fin.val) (fun n x => finOfCode_iff.mp) (fun n h => ?_) _
      have := (good 4).2.2.2.1 rfl n h
      simp [finOfCode]
      omega
    · exact code_getD (fun n x found => (StartEdge.ofCode_iff.mp found).1)
        (fun n h => StartEdge.ofCode_isSome.mpr ((good 5).2.2.2.2.1 rfl n h)) _
    · exact code_getD (fun n x => Policy.ofCode_iff.mp)
        (fun n h => Policy.ofCode_isSome.mpr ((good 7).2.2.2.2.2.2 rfl n h)) _
  · exact requestStep_refused (owner := planSetCycleOwner) rfl ready read
      (edit_bad none' (SetCycle.bad_eq_some bad before) _)

/-! ## PLAN_SET_CHANNEL and PLAN_SET_INPUT (R27, R28) -/

/-- Of three fields in order the first that is out of range is refused. -/
theorem firstBad_three {a b c : Bool} {A B C : Prop} (ha : a = true ↔ A) (hb : b = true ↔ B) (hc : c = true ↔ C) :
    (firstBad [(1, a), (2, b), (3, c)] = none ↔ A ∧ B ∧ C) ∧
      (¬ A → firstBad [(1, a), (2, b), (3, c)] = some 1) ∧
      (A → ¬ B → firstBad [(1, a), (2, b), (3, c)] = some 2) ∧
      (A → B → ¬ C → firstBad [(1, a), (2, b), (3, c)] = some 3) := by
  rw [← ha, ← hb, ← hc]
  cases a <;> cases b <;> cases c <;> decide

theorem Use.ofCode_used {n : Nat} : Use.ofCode n = some .used ↔ n = 0 := by
  rcases n with _ | _ | n <;> simp [Use.ofCode]

/-- A present use in range takes the record's place, an absent one leaves it (R27). -/
theorem SetPair.ontoChannel_use {c : SetPair} (range : ∀ n, c.second = some n → n ≤ 1) (cfg : ChannelCfg) :
    (c.ontoChannel cfg).use = .used ↔ c.second = some 0 ∨ c.second = none ∧ cfg.use = .used := by
  unfold SetPair.ontoChannel
  cases field : c.second with
  | none => simp
  | some n =>
    obtain ⟨x, found⟩ := Option.isSome_iff_exists.mp (Use.ofCode_isSome.mpr (range n field))
    simp [found, ← Use.ofCode_used]

theorem SetPair.badChannel_spec (c : SetPair) :
    (c.badChannel = none ↔
      c.number < 8 ∧ (∀ n, c.first = some n → n ≤ 1) ∧ ∀ n, c.second = some n → n ≤ 1) ∧
      (¬ c.number < 8 → c.badChannel = some 1) ∧
      (c.number < 8 → ¬ (∀ n, c.first = some n → n ≤ 1) → c.badChannel = some 2) ∧
      (c.number < 8 → (∀ n, c.first = some n → n ≤ 1) → ¬ (∀ n, c.second = some n → n ≤ 1) →
        c.badChannel = some 3) :=
  firstBad_three decide_eq_true_iff (by simp only [absentOr_iff, Sense.ofCode_isSome])
    (by simp only [absentOr_iff, Use.ofCode_isSome])

theorem SetPair.badInput_spec (c : SetPair) :
    (c.badInput = none ↔
      c.number < 4 ∧ (∀ n, c.first = some n → n ≤ 15) ∧ ∀ n, c.second = some n → n ≤ 3) ∧
      (¬ c.number < 4 → c.badInput = some 1) ∧
      (c.number < 4 → ¬ (∀ n, c.first = some n → n ≤ 15) → c.badInput = some 2) ∧
      (c.number < 4 → (∀ n, c.first = some n → n ≤ 15) → ¬ (∀ n, c.second = some n → n ≤ 3) →
        c.badInput = some 3) :=
  firstBad_three decide_eq_true_iff (by simp only [absentOr_iff, decide_eq_true_eq])
    (by simp only [absentOr_iff, CaptureEdges.ofCode_isSome])

/-- Settles O7: each request by its fields in range, or by the first that is not. -/
theorem planSetChannelAndInputReplaceOneRecord : Obligations.PlanSetChannelAndInputReplaceOneRecord := by
  intro s q c read none upTo
  have pending (code : Nat) : (s.taken code q).plans.commitPending = false := by simpa using none
  have staged (code : Nat) : (s.taken code q).staged = s.plans.staged := by simp [State.staged]
  obtain ⟨goodChannel, channel1, channel2, channel3⟩ := c.badChannel_spec
  obtain ⟨goodInput, input1, input2, input3⟩ := c.badInput_spec
  have refuseChannel {k : Nat} (ready : s.ready 5 q) (bad : c.badChannel = some k) :
      Answers (.planSetChannel q) s 5 q s (.badValue k) [] :=
    requestStep_refused (owner := planSetChannelOwner) rfl ready read (edit_bad (pending 5) bad _)
  have refuseInput {k : Nat} (ready : s.ready 6 q) (bad : c.badInput = some k) :
      Answers (.planSetInput q) s 6 q s (.badValue k) [] :=
    requestStep_refused (owner := planSetInputOwner) rfl ready read (edit_bad (pending 6) bad _)
  refine ⟨fun i ready first second number => ?_,
    fun ready =>
      ⟨fun h => refuseChannel ready (channel1 (Nat.not_lt.mpr h)),
        fun h h2 => refuseChannel ready (channel2 (Nat.lt_succ_of_le h) h2),
        fun h h2 h3 => refuseChannel ready (channel3 (Nat.lt_succ_of_le h) h2 h3)⟩,
    fun ready =>
      ⟨fun h => refuseInput ready (input1 (Nat.not_lt.mpr h)),
        fun h h2 => refuseInput ready (input2 (Nat.lt_succ_of_le h) h2),
        fun h h2 h3 => refuseInput ready (input3 (Nat.lt_succ_of_le h) h2 h3)⟩,
    fun i ready first second number => ?_⟩
  · have good := goodChannel.mpr ⟨by omega, first, second⟩
    refine ⟨c.ontoChannel (s.plans.staged.channels.get i),
      requestStep_stages (owner := planSetChannelOwner) rfl ready read ?_, ?_, SetPair.ontoChannel_use second _⟩
    · rw [planSetChannelOwner, edit_good (pending 5) good, staged, finOfCode_iff.mpr number]
      rfl
    · exact code_getD (fun n x => Sense.ofCode_iff.mp) (fun n h => Sense.ofCode_isSome.mpr (first n h)) _
  · have good := goodInput.mpr ⟨by omega, first, second⟩
    refine ⟨c.ontoInput (s.plans.staged.inputs.get i),
      requestStep_stages (owner := planSetInputOwner) rfl ready read ?_, rfl, ?_⟩
    · rw [planSetInputOwner, edit_good (pending 6) good, staged, finOfCode_iff.mpr number]
      rfl
    · exact code_getD (fun n x => CaptureEdges.ofCode_iff.mp) (fun n h => CaptureEdges.ofCode_isSome.mpr (second n h)) _

/-! ## The tables (R29 to R33) -/

/-- An entry goes in front of the first one with a greater offset (R30; entry 45). -/
theorem insertEntry_eq (e : Entry) (es : List Entry) :
    insertEntry e es =
      (es.takeWhile fun x => decide (x.offset ≤ e.offset)) ++ e :: es.dropWhile fun x => decide (x.offset ≤ e.offset) := by
  induction es with
  | nil => rfl
  | cons x es ih =>
    unfold insertEntry
    by_cases h : x.offset ≤ e.offset <;> simp [h, ih]

/-- A window goes in front of the first one with a greater id (R32). -/
theorem insertWindow_eq (w : Window) (ws : List Window) :
    insertWindow w ws =
      (ws.takeWhile fun x => decide (x.id ≤ w.id)) ++ w :: ws.dropWhile fun x => decide (x.id ≤ w.id) := by
  induction ws with
  | nil => rfl
  | cons x ws ih =>
    unfold insertWindow
    by_cases h : x.id ≤ w.id <;> simp [h, ih]

theorem any_id_iff {α : Type} (id : α → Nat) (table : List α) (k : Nat) :
    (table.any fun x => decide (id x = k)) = true ↔ ∃ x ∈ table, id x = k := by simp

theorem any_id_false {α : Type} {id : α → Nat} {table : List α} {k : Nat} (h : ∀ x ∈ table, id x ≠ k) :
    ¬ (table.any fun x => decide (id x = k)) = true := by simpa using h

/-- What ENTRY_ADD's owner makes of fields, by their check and the table (R29, R30). -/
theorem entryAddOwner_spec {s : State} (none : s.plans.commitPending = false) (raw : RawEntry) :
    (∀ k, raw.check = .error k → entryAddOwner raw s = refuse s (.badValue k)) ∧
      ∀ e, raw.check = .ok e →
        ((∃ x ∈ s.staged.entries, x.id = e.id) → entryAddOwner raw s = refuse s .duplicateId) ∧
          ((∀ x ∈ s.staged.entries, x.id ≠ e.id) →
            (64 ≤ s.staged.entries.length → entryAddOwner raw s = refuse s .tableFull) ∧
              (s.staged.entries.length < 64 →
                entryAddOwner raw s = okay (s.stage { s.staged with entries := insertEntry e s.staged.entries }))) := by
  unfold entryAddOwner
  rw [if_neg (by simp [none])]
  refine ⟨fun k bad => by rw [bad], fun e good => ?_⟩
  rw [good]
  dsimp only
  refine ⟨fun taken => if_pos ((any_id_iff Entry.id _ _).mpr taken), fun free => ?_⟩
  rw [if_neg (any_id_false free)]
  exact ⟨fun full => if_pos full, fun room => if_neg (Nat.not_le.mpr room)⟩

/-- What WINDOW_ADD's owner makes of fields, by their check and the table (R32). -/
theorem windowAddOwner_spec {s : State} (none : s.plans.commitPending = false) (raw : RawWindow) :
    (∀ k, raw.check = .error k → windowAddOwner raw s = refuse s (.badValue k)) ∧
      ∀ w, raw.check = .ok w →
        ((∃ x ∈ s.staged.windows, x.id = w.id) → windowAddOwner raw s = refuse s .duplicateId) ∧
          ((∀ x ∈ s.staged.windows, x.id ≠ w.id) →
            (8 ≤ s.staged.windows.length → windowAddOwner raw s = refuse s .tableFull) ∧
              (s.staged.windows.length < 8 →
                windowAddOwner raw s = okay (s.stage { s.staged with windows := insertWindow w s.staged.windows }))) := by
  unfold windowAddOwner
  rw [if_neg (by simp [none])]
  refine ⟨fun k bad => by rw [bad], fun w good => ?_⟩
  rw [good]
  dsimp only
  refine ⟨fun taken => if_pos ((any_id_iff Window.id _ _).mpr taken), fun free => ?_⟩
  rw [if_neg (any_id_false free)]
  exact ⟨fun full => if_pos full, fun room => if_neg (Nat.not_le.mpr room)⟩

/-- A taken request's owner finds the staged plan and the pending commit of the state itself. -/
theorem State.taken_edits (s : State) (code : Nat) (q : Req) :
    (s.taken code q).staged = s.plans.staged ∧
      (s.plans.commitPending = false → (s.taken code q).plans.commitPending = false) := by
  simp [State.staged]

/-- Settles O8, by the check of the fields, then the id, then the room. -/
theorem entryAndWindowAddInsertInOrder : Obligations.EntryAndWindowAddInsertInOrder := by
  refine ⟨fun s q raw ready read none => ?_, fun s q raw ready read none => ?_⟩
  · obtain ⟨staged, none'⟩ := s.taken_edits 7 q
    obtain ⟨bad, good⟩ := entryAddOwner_spec (none' none) raw
    rw [staged] at good
    refine ⟨fun e fields => ?_, fun k fields => requestStep_refused rfl ready read (bad k fields)⟩
    obtain ⟨duplicate, free⟩ := good e fields
    rw [← insertEntry_eq]
    exact ⟨fun h => requestStep_refused rfl ready read (duplicate h),
      fun h full => requestStep_refused rfl ready read ((free h).1 full),
      fun h room => requestStep_stages rfl ready read ((free h).2 room)⟩
  · obtain ⟨staged, none'⟩ := s.taken_edits 9 q
    obtain ⟨bad, good⟩ := windowAddOwner_spec (none' none) raw
    rw [staged] at good
    refine ⟨fun w fields => ?_, fun k fields => requestStep_refused rfl ready read (bad k fields)⟩
    obtain ⟨duplicate, free⟩ := good w fields
    rw [← insertWindow_eq]
    exact ⟨fun h => requestStep_refused rfl ready read (duplicate h),
      fun h full => requestStep_refused rfl ready read ((free h).1 full),
      fun h room => requestStep_stages rfl ready read ((free h).2 room)⟩

/-- A request with one field in its range has none out of it. -/
theorem firstBad_one (b : Bool) :
    (b = true → firstBad [(1, b)] = none) ∧ (b = false → firstBad [(1, b)] = some 1) := by
  cases b <;> decide

/-- What ENTRY_REMOVE's owner makes of an id (R31). -/
theorem entryRemoveOwner_spec {s : State} (none : s.plans.commitPending = false) (id : Nat) :
    (¬ (1 ≤ id ∧ id ≤ 255) → entryRemoveOwner id s = refuse s (.badValue 1)) ∧
      (1 ≤ id ∧ id ≤ 255 →
        ((∀ x ∈ s.staged.entries, x.id ≠ id) → entryRemoveOwner id s = refuse s .notFound) ∧
          ((∃ x ∈ s.staged.entries, x.id = id) →
            entryRemoveOwner id s =
              okay (s.stage { s.staged with entries := s.staged.entries.filter fun x => decide (x.id ≠ id) }))) := by
  unfold entryRemoveOwner
  refine ⟨fun bad => edit_bad none ((firstBad_one _).2 (decide_eq_false bad)) _, fun range => ?_⟩
  rw [edit_good none ((firstBad_one _).1 (decide_eq_true range))]
  exact ⟨fun absent => if_neg (any_id_false absent), fun present => if_pos ((any_id_iff Entry.id _ _).mpr present)⟩

/-- What WINDOW_REMOVE's owner makes of an id (R33). -/
theorem windowRemoveOwner_spec {s : State} (none : s.plans.commitPending = false) (id : Nat) :
    (¬ (1 ≤ id ∧ id ≤ 15) → windowRemoveOwner id s = refuse s (.badValue 1)) ∧
      (1 ≤ id ∧ id ≤ 15 →
        ((∀ x ∈ s.staged.windows, x.id ≠ id) → windowRemoveOwner id s = refuse s .notFound) ∧
          ((∃ x ∈ s.staged.windows, x.id = id) →
            windowRemoveOwner id s =
              okay (s.stage { s.staged with windows := s.staged.windows.filter fun x => decide (x.id ≠ id) }))) := by
  unfold windowRemoveOwner
  refine ⟨fun bad => edit_bad none ((firstBad_one _).2 (decide_eq_false bad)) _, fun range => ?_⟩
  rw [edit_good none ((firstBad_one _).1 (decide_eq_true range))]
  exact ⟨fun absent => if_neg (any_id_false absent), fun present => if_pos ((any_id_iff Window.id _ _).mpr present)⟩

theorem one_le_toNat {b : Byte} (h : b ≠ 0) : 1 ≤ b.toNat := by
  by_contra zero
  exact h (BitVec.eq_of_toNat_eq (by simpa using zero))

/-- Settles O9, by the range of the id, then the table. -/
theorem entryAndWindowRemoveRemoveTheRow : Obligations.EntryAndWindowRemoveRemoveTheRow := by
  refine ⟨fun s q id ready params none => ?_, fun s q id ready params none => ?_⟩
  · obtain ⟨staged, none'⟩ := s.taken_edits 8 q
    have read := readOne_singleton params
    have top : id.toNat ≤ 255 := Nat.le_of_lt_succ id.isLt
    obtain ⟨bad, good⟩ := entryRemoveOwner_spec (none' none) id.toNat
    rw [staged] at good
    refine ⟨fun zero => requestStep_refused rfl ready read (bad (by simp [zero])), fun set absent => ?_, fun set present => ?_⟩
    · exact requestStep_refused rfl ready read ((good ⟨one_le_toNat set, top⟩).1 absent)
    · exact requestStep_stages rfl ready read ((good ⟨one_le_toNat set, top⟩).2 present)
  · obtain ⟨staged, none'⟩ := s.taken_edits 10 q
    have read := readOne_singleton params
    obtain ⟨bad, good⟩ := windowRemoveOwner_spec (none' none) id.toNat
    rw [staged] at good
    refine ⟨fun out => requestStep_refused rfl ready read (bad ?_), fun set top absent => ?_, fun set top present => ?_⟩
    · rintro ⟨low, high⟩
      rcases out with rfl | out
      · simp at low
      · omega
    · exact requestStep_refused rfl ready read ((good ⟨one_le_toNat set, top⟩).1 absent)
    · exact requestStep_stages rfl ready read ((good ⟨one_le_toNat set, top⟩).2 present)

/-! ## The staged plan whole (R34 to R36, R116) -/

/-- Settles O10: each is an edit without fields. -/
theorem planClearAndCopyActiveReplaceTheStagedPlan : Obligations.PlanClearAndCopyActiveReplaceTheStagedPlan := by
  refine ⟨fun s q ready params => ?_, fun s q ready params => ?_⟩
  · have read := readNothing_nil params
    refine ⟨fun pending => ?_, fun none => ?_⟩
    · exact requestStep_refused (owner := planClearOwner) rfl ready read (edit_pending (by simpa using pending) _ _)
    · exact requestStep_stages (owner := planClearOwner) rfl ready read (edit_good (by simpa using none) rfl _)
  · have read := readNothing_nil params
    have active : (s.taken 12 q).plans.active = s.plans.active := by simp
    refine ⟨fun pending => ?_, fun none => ?_⟩
    · exact requestStep_refused (owner := planCopyActiveOwner) rfl ready read (edit_pending (by simpa using pending) _ _)
    · refine requestStep_stages (owner := planCopyActiveOwner) rfl ready read ?_
      rw [planCopyActiveOwner, edit_good (by simpa using none) rfl, active]

/-- A profile is read from the current bank, if its CRC fits and its body holds a plan (R116 step 5, R175). -/
theorem State.readProfile_eq {s : State} {bank : Bank} (current : s.store.dir.bank = some bank) (e : DirEntry) :
    s.readProfile e =
      if (crc32 (s.media.slice bank (e.offset + 32) e.bodyLength)).toNat = fromBe (s.media.slice bank (e.offset + 21) 4)
      then Plan.ofBytes (s.media.slice bank (e.offset + 32) e.bodyLength) else none := by
  unfold State.readProfile
  rw [current]
  rfl

theorem State.readProfile_good {s : State} {bank : Bank} (current : s.store.dir.bank = some bank) {e : DirEntry} {p : Plan}
    (crc : (crc32 (s.media.slice bank (e.offset + 32) e.bodyLength)).toNat = fromBe (s.media.slice bank (e.offset + 21) 4))
    (read : Plan.ofBytes (s.media.slice bank (e.offset + 32) e.bodyLength) = some p) : s.readProfile e = some p := by
  rw [State.readProfile_eq current, if_pos crc, read]

theorem State.readProfile_bad {s : State} {bank : Bank} (current : s.store.dir.bank = some bank) {e : DirEntry}
    (bad : (crc32 (s.media.slice bank (e.offset + 32) e.bodyLength)).toNat ≠ fromBe (s.media.slice bank (e.offset + 21) 4) ∨
      Plan.ofBytes (s.media.slice bank (e.offset + 32) e.bodyLength) = none) : s.readProfile e = none := by
  rw [State.readProfile_eq current]
  split
  · rename_i crc
    exact bad.resolve_left (absurd crc)
  · rfl

/-- What PROFILE_LOAD's owner makes of a slot, refusal by refusal (R116). -/
theorem profileLoadOwner_spec (s : State) {n : Nat} {slot : Fin 8} (h : n = slot.val) :
    (s.store.status = .busy → profileLoadOwner n s = refuse s .storeBusy) ∧
      (s.store.status ≠ .busy →
        (s.plans.commitPending = true → profileLoadOwner n s = refuse s .commitPending) ∧
          (s.plans.commitPending = false →
            (s.store.dir.slots.get slot = none → profileLoadOwner n s = refuse s .emptySlot) ∧
              ∀ e, s.store.dir.slots.get slot = some e → profileLoadOwner n s = s.loadEntry e)) := by
  unfold profileLoadOwner
  rw [finOfCode_iff.mpr h]
  dsimp only
  refine ⟨fun busy => if_pos busy, fun idle => ?_⟩
  rw [if_neg idle]
  refine ⟨fun pending => if_pos pending, fun none => ?_⟩
  rw [if_neg (by simp [none])]
  exact ⟨fun empty => by rw [empty], fun e found => by rw [found]⟩

/-- Settles O24, by the refusals in their order, then the record. -/
theorem profileLoadReplacesTheStagedPlan : Obligations.ProfileLoadReplacesTheStagedPlan := by
  intro s q n ready params
  have read := readOne_singleton params
  refine ⟨fun out => requestStep_refused (owner := profileLoadOwner) rfl ready read ?_, fun slot number => ?_⟩
  · rw [profileLoadOwner, finOfCode_none.mpr out]
  · obtain ⟨busy, idle⟩ := profileLoadOwner_spec (s.taken 30 q) number
    simp only [State.taken_keeps] at busy idle
    refine ⟨fun h => requestStep_refused rfl ready read (busy h),
      fun h pending => requestStep_refused rfl ready read ((idle h).1 pending),
      fun h none empty => requestStep_refused rfl ready read (((idle h).2 none).1 empty),
      fun bank e h none current found => ?_⟩
    have loads := ((idle h).2 none).2 e found
    have current' : (s.taken 30 q).store.dir.bank = some bank := by simpa using current
    have media : (s.taken 30 q).media = s.media := by simp
    refine ⟨fun p crc body => ?_, fun bad => ?_⟩
    · have profile := State.readProfile_good current' (by rw [media]; exact crc) (by rw [media]; exact body)
      refine requestStep_stages rfl ready read (loads.trans ?_)
      rw [State.loadEntry, profile]
      rfl
    · have profile := State.readProfile_bad (e := e) current' (by rw [media]; exact bad)
      refine requestStep_refused rfl ready read (loads.trans ?_)
      rw [State.loadEntry, profile]

/-! ## Reading plans back (R37, R38) -/

theorem planReadOwner_spec (n : Nat) (s : State) :
    (n = 0 → planReadOwner n s = ⟨s, .ok, s.plans.staged.fixedBytes, false⟩) ∧
      (n = 1 →
        planReadOwner n s = ⟨s, .ok, s.plans.active.fixedBytes ++ be2 s.timeline.edges.length, false⟩) ∧
      (1 < n → planReadOwner n s = refuse s (.badValue 1)) := by
  rcases n with _ | _ | n
  · exact ⟨fun _ => rfl, nofun, nofun⟩
  · exact ⟨nofun, fun _ => rfl, fun h => absurd h (by omega)⟩
  · exact ⟨nofun, nofun, fun _ => rfl⟩

/-- A field names a plan of a state. -/
def State.names (s : State) (n : Nat) (p : Plan) : Prop := n = 0 ∧ p = s.plans.staged ∨ n = 1 ∧ p = s.plans.active

theorem State.names.planNamed {s : State} {n : Nat} {p : Plan} (h : s.names n p) :
    ∃ which, PlanName.ofCode n = some which ∧ s.planNamed which = p := by
  obtain ⟨rfl, rfl⟩ | ⟨rfl, rfl⟩ := h
  · exact ⟨.staged, rfl, rfl⟩
  · exact ⟨.active, rfl, rfl⟩

theorem PlanName.ofCode_none {n : Nat} (h : 1 < n) : PlanName.ofCode n = none := by
  rcases n with _ | _ | n
  · omega
  · omega
  · rfl

/-- A page holds up to 8 rows from its start on (R38, R172). -/
theorem pageOf_eq {α : Type} (row : α → List Byte) (table : List α) (start : Nat) :
    pageOf row table start =
      be1 table.length ++ be1 (min 8 (table.length - start)) ++ (((table.drop start).take 8).map row).flatten := by
  simp [pageOf]

theorem entryListOwner_spec {s : State} {n start : Nat} :
    (1 < n → entryListOwner (n, start) s = refuse s (.badValue 1)) ∧
      ∀ p, s.names n p →
        (start < 64 → entryListOwner (n, start) s = ⟨s, .ok, pageOf Entry.bytes p.entries start, false⟩) ∧
          (64 ≤ start → entryListOwner (n, start) s = refuse s (.badValue 2)) := by
  unfold entryListOwner
  refine ⟨fun out => by rw [PlanName.ofCode_none out], fun p named => ?_⟩
  obtain ⟨which, found, rfl⟩ := named.planNamed
  rw [found]
  exact ⟨fun inside => if_neg (Nat.not_le.mpr inside), fun past => if_pos past⟩

theorem windowListOwner_spec {s : State} {n start : Nat} :
    (1 < n → windowListOwner (n, start) s = refuse s (.badValue 1)) ∧
      ∀ p, s.names n p →
        (start < 8 → windowListOwner (n, start) s = ⟨s, .ok, pageOf Window.bytes p.windows start, false⟩) ∧
          (8 ≤ start → windowListOwner (n, start) s = refuse s (.badValue 2)) := by
  unfold windowListOwner
  refine ⟨fun out => by rw [PlanName.ofCode_none out], fun p named => ?_⟩
  obtain ⟨which, found, rfl⟩ := named.planNamed
  rw [found]
  exact ⟨fun inside => if_neg (Nat.not_le.mpr inside), fun past => if_pos past⟩

/-- Settles O12: the three reports by the plan they name and the position they start at. -/
theorem planReadAndListsReturnThePlan : Obligations.PlanReadAndListsReturnThePlan := by
  refine ⟨fun s q which ready params => ?_, fun s q which start params out => ?_, fun s q which start p params named => ?_⟩
  · have read := readOne_singleton params
    obtain ⟨staged, active, out⟩ := planReadOwner_spec which.toNat (s.taken 13 q)
    simp only [State.taken_keeps] at staged active
    exact ⟨fun h => requestStep_reports rfl ready read (staged (by rw [h]; rfl)),
      fun h => requestStep_reports rfl ready read (active (by rw [h]; rfl)),
      fun h => requestStep_refused rfl ready read (out h)⟩
  · have read := readTwo_pair params
    exact ⟨fun ready => requestStep_refused rfl ready read (entryListOwner_spec.1 out),
      fun ready => requestStep_refused rfl ready read (windowListOwner_spec.1 out)⟩
  · have read := readTwo_pair params
    have names (code : Nat) : (s.taken code q).names which.toNat p := by
      unfold State.names
      simp only [State.taken_keeps]
      exact named.imp (fun h => ⟨by rw [h.1]; rfl, h.2⟩) fun h => ⟨by rw [h.1]; rfl, h.2⟩
    rw [← pageOf_eq, ← pageOf_eq]
    refine ⟨fun ready => ?_, fun ready => ?_⟩
    · obtain ⟨inside, past⟩ := entryListOwner_spec.2 p (names 14)
      exact ⟨fun h => requestStep_reports rfl ready read (inside h), fun h => requestStep_refused rfl ready read (past h)⟩
    · obtain ⟨inside, past⟩ := windowListOwner_spec.2 p (names 15)
      exact ⟨fun h => requestStep_reports rfl ready read (inside h), fun h => requestStep_refused rfl ready read (past h)⟩

/-! ## Commits (R46 to R49) -/

/-- The staged plan put in force at once, with its parts (R46, R47, R51, R63, R92). -/
def State.swappedIn (s : State) : State :=
  { s with
    plans := ⟨s.plans.staged, s.plans.staged, s.plans.staged.expand, s.plans.commitPending, .applied none⟩
    timeline := s.timeline.replaced s.plans.staged.expand
    monitor := s.monitor.withTable s.plans.staged.windows
    channels := s.channels.mapIdx fun i c => c.swapped (s.plans.staged.channels.get i) }

/-- What PLAN_COMMIT's owner does, case by case (R46). -/
theorem planCommitOwner_spec (s : State) :
    (s.plans.commitPending = true → planCommitOwner () s = refuse s .commitPending) ∧
      (s.plans.commitPending = false →
        (∀ check subject, s.plans.staged.failure = some (check, subject) →
          planCommitOwner () s =
            ⟨s.withPlans { s.plans with outcome := .none }, .planInvalid check subject, [], false⟩) ∧
        (s.plans.staged.failure = none →
          (s.seq.mode.running = true →
            planCommitOwner () s =
              ⟨s.withPlans
                  { s.plans with
                    stagedTimeline := s.plans.staged.expand, commitPending := true, outcome := .pending },
                .pending s.plans.staged.expand.length, [], false⟩) ∧
          (s.seq.mode.running = false →
            planCommitOwner () s = ⟨s.swappedIn, .ok, be1 1 ++ be2 s.plans.staged.expand.length, false⟩))) := by
  unfold planCommitOwner
  refine ⟨fun pending => if_pos pending, fun none => ?_⟩
  rw [if_neg (by simp [none])]
  refine ⟨fun check subject fails => ?_, fun passes => ?_⟩
  · rw [State.staged, fails]
    rfl
  · rw [State.staged, passes]
    dsimp only [State.commit]
    exact ⟨fun running => if_pos running, fun stands =>
      if_neg (by rw [show (s.setOutcome .none).seq = s.seq from rfl, stands]; decide)⟩

theorem State.swappedIn_agrees (s : State) (code : Nat) (q : Req) : (s.taken code q).swappedIn.agrees s.swappedIn :=
  State.taken_op_agrees (fun _ _ => rfl) s code q

/-- Settles O14: a refusal, a wait, or the swap with its channel block. -/
theorem planCommitIsRefusedWaitsOrSwaps : Obligations.PlanCommitIsRefusedWaitsOrSwaps := by
  refine ⟨fun s q ready params => ?_, fun s q ready params none passes stands => ?_⟩
  · have read := readNothing_nil params
    obtain ⟨pending, none⟩ := planCommitOwner_spec (s.taken 17 q)
    simp only [State.taken_keeps] at pending none
    exact ⟨fun h => requestStep_refused rfl ready read (pending h),
      fun check subject h fails => requestStep_withPlans rfl ready read ((none h).1 check subject fails),
      fun h passes running => requestStep_withPlans rfl ready read (((none h).2 passes).1 running)⟩
  · have read := readNothing_nil params
    have swaps := ((planCommitOwner_spec (s.taken 17 q)).2 (by simpa using none)).2 (by simpa using passes) |>.2
      (by simpa using stands)
    refine ⟨s.swappedIn.channels, ?_, fun i => ?_⟩
    · refine requestStep_answers (owner := planCommitOwner) rfl ready read ?_ (by rw [swaps]) (by rw [swaps]; simp)
        (by rw [swaps]; simp [State.swappedIn])
      rw [swaps, ← none]
      exact s.swappedIn_agrees 17 q
    · simpa [State.swappedIn] using Channel.swapped_spec _ _

/-- Settles O15, by the last outcome. -/
theorem planAbandonFollowsTheOutcome : Obligations.PlanAbandonFollowsTheOutcome := by
  intro s q ready params
  have read := readNothing_nil params
  have outcome : (s.taken 18 q).plans.outcome = s.plans.outcome := by simp
  refine ⟨fun pending => ?_, fun cycle applied => ?_, fun other => ?_⟩
  · refine requestStep_withPlans (owner := planAbandonOwner)
      (b := { s.plans with commitPending := false, outcome := .abandoned }) rfl ready read ?_
    rw [planAbandonOwner, outcome, pending]
    simp [okay, State.withPlans]
  · refine requestStep_refused (owner := planAbandonOwner) rfl ready read ?_
    rw [planAbandonOwner, outcome, applied]
  · refine requestStep_refused (owner := planAbandonOwner) rfl ready read ?_
    rw [planAbandonOwner, outcome]
    rcases other with h | h <;> rw [h]

end Sys2Proof.Machine

end

section
/-! The end of the start-up scan and the boot load (R121, R127 to R129). -/

set_option Elab.async false

namespace Sys2Proof.Machine

/-! ## Stage 4 (R122, R128) -/

theorem State.bootLoad_unselected {s : State} (unselected : ∀ b, s.store.dir.boot = some b → b.selected = none) :
    s.bootLoad = (s.keepAutoRun false).booted none .noSelection := by
  unfold State.bootLoad
  split
  next boot => exact absurd (unselected _ boot) (by simp)
  next => rfl

theorem State.bootLoad_selected {s : State} {b : BootEntry} {slot : Fin 8} (boot : s.store.dir.boot = some b)
    (selected : b.selected = some slot) : s.bootLoad = (s.keepAutoRun b.autoRun).bootFrom slot := by
  obtain ⟨_, _, _, _⟩ := b
  cases selected
  unfold State.bootLoad
  rw [boot]

theorem State.bootFrom_empty {s : State} {slot : Fin 8} (empty : s.store.dir.slots.get slot = none) :
    s.bootFrom slot = s.booted (some slot) .emptySlot := by
  rw [State.bootFrom, empty]

theorem State.bootFrom_bad {s : State} {slot : Fin 8} {e : DirEntry} (entry : s.store.dir.slots.get slot = some e)
    (bad : s.readProfile e = none) : s.bootFrom slot = s.booted (some slot) .recordBad := by
  simp only [State.bootFrom, entry, bad]

theorem State.bootFrom_read {s : State} {slot : Fin 8} {e : DirEntry} {p : Plan}
    (entry : s.store.dir.slots.get slot = some e) (read : s.readProfile e = some p) :
    s.bootFrom slot =
      if p.failure.isSome then s.booted (some slot) .planInvalid else (s.install p).booted (some slot) .loaded := by
  simp only [State.bootFrom, entry, read]

/-- A boot load of a slot names the slot and keeps the rest of the start-up's state, and it touches the plans and their
users with a loaded plan alone. -/
theorem State.bootFrom_result (s : State) (slot : Fin 8) :
    (s.bootFrom slot).startup =
        { s.startup with bootSlot := some slot, bootResult := (s.bootFrom slot).startup.bootResult } ∧
      ((s.bootFrom slot).startup.bootResult ≠ .loaded →
        (s.bootFrom slot).plans = s.plans ∧ (s.bootFrom slot).timeline = s.timeline ∧
          (s.bootFrom slot).monitor = s.monitor) := by
  unfold State.bootFrom
  split
  next => exact ⟨rfl, fun _ => ⟨rfl, rfl, rfl⟩⟩
  next =>
    split
    next => exact ⟨rfl, fun _ => ⟨rfl, rfl, rfl⟩⟩
    next =>
      split
      next => exact ⟨rfl, fun _ => ⟨rfl, rfl, rfl⟩⟩
      next => exact ⟨rfl, fun loaded => absurd rfl loaded⟩

/-- The same of stage 4, whatever is selected. -/
theorem State.bootLoad_result (s : State) :
    (s.bootLoad.startup.stage = s.startup.stage ∧ s.bootLoad.startup.scan = s.startup.scan ∧
        s.bootLoad.startup.cause = s.startup.cause) ∧
      (s.bootLoad.startup.bootResult ≠ .loaded →
        s.bootLoad.plans = s.plans ∧ s.bootLoad.timeline = s.timeline ∧ s.bootLoad.monitor = s.monitor) := by
  by_cases unselected : ∀ b, s.store.dir.boot = some b → b.selected = none
  · rw [State.bootLoad_unselected unselected]
    exact ⟨⟨rfl, rfl, rfl⟩, fun _ => ⟨rfl, rfl, rfl⟩⟩
  · push Not at unselected
    obtain ⟨b, boot, some⟩ := unselected
    obtain ⟨slot, selected⟩ := Option.ne_none_iff_exists'.1 some
    rw [State.bootLoad_selected boot selected]
    obtain ⟨startup, kept⟩ := State.bootFrom_result (s.keepAutoRun b.autoRun) slot
    rw [startup]
    exact ⟨⟨rfl, rfl, rfl⟩, kept⟩

/-- What becomes of a selected slot's record, test by test (R128). -/
theorem State.bootFrom_spec (s : State) (slot : Fin 8) :
    (s.store.dir.slots.get slot = none → (s.bootFrom slot).startup.bootResult = .emptySlot) ∧
      ∀ bank e, s.store.dir.bank = some bank → s.store.dir.slots.get slot = some e →
        let body := s.media.slice bank (e.offset + 32) e.bodyLength
        let stored := fromBe (s.media.slice bank (e.offset + 21) 4)
        ((crc32 body).toNat ≠ stored ∨ Plan.ofBytes body = none → (s.bootFrom slot).startup.bootResult = .recordBad) ∧
        (∀ p, (crc32 body).toNat = stored → Plan.ofBytes body = some p →
          (p.failure ≠ none → (s.bootFrom slot).startup.bootResult = .planInvalid) ∧
          (p.failure = none → s.bootFrom slot = (s.install p).booted (some slot) .loaded)) := by
  refine ⟨fun empty => ?_, fun bank e current entry =>
    ⟨fun bad => ?_, fun p crc read => ⟨fun fails => ?_, fun passes => ?_⟩⟩⟩
  · rw [State.bootFrom_empty empty]; rfl
  · rw [State.bootFrom_bad entry (State.readProfile_bad current bad)]; rfl
  · rw [State.bootFrom_read entry (State.readProfile_good current crc read), if_pos (by simpa [Option.isSome_iff_ne_none])]
    rfl
  · rw [State.bootFrom_read entry (State.readProfile_good current crc read), passes]; rfl

/-! ## The end of the scan -/

theorem State.applyChannelBlock_get (s : State) (i : Fin 8) :
    s.applyChannelBlock.channels.get i =
      ⟨(s.plans.active.channels.get i).sense, (s.plans.active.channels.get i).use, .inactive,
        if (s.plans.active.channels.get i).use = .used then .driven else .highZ, .free, none⟩ := by
  rw [State.applyChannelBlock, Row.get_mapIdx]
  cases use : (s.plans.active.channels.get i).use <;> simp [Channel.applied, use, Use.drive]

theorem State.scanResult_ended {s : State} {j : Job} {found : Directory} {corrupt : Nat} {formatting : Bool}
    (live : s.live = true) (scanning : s.startup.stage = .scanning) (job : s.store.job = some j)
    (kind : j.kind = .scan found corrupt formatting) (steps : j.steps = []) :
    s.scanResult =
      some (if formatting && (j.failed || j.worn) then Directory.blank else found,
        ⟨j.failed || j.worn, min 65535 j.repairs, min 65535 corrupt, formatting && !(j.failed || j.worn)⟩) := by
  simp [State.scanResult, Job.scanResult, live, scanning, job, kind, steps]

/-- The STOP filter settles alike before and after stages 3 to 5. -/
theorem State.scanEnds_eq (s : State) (found : Directory) (report : ScanReport) :
    s.scanEnds found report =
      let u := (s.scanDone found report).bootLoad.applyChannelBlock
      if s.stopSettled = true then u.runStage else u := by
  have settled : (s.scanDone found report).bootLoad.applyChannelBlock.stopSettled = s.stopSettled := by
    simp [State.stopSettled]
  simp only [State.scanEnds, settled]

/-- Settles O49: stages 3 to 5 by their parts. -/
theorem scanEndBootsTheSelectedProfile : Obligations.ScanEndBootsTheSelectedProfile := by
  unfold Obligations.ScanEndBootsTheSelectedProfile
  intro s j found corrupt formatting live scanning job kind steps bad dir report
  obtain ⟨⟨stage, scan, cause⟩, unloaded⟩ := (s.scanDone dir report).bootLoad_result
  have ends : exec .storeScanEnd s = .next (s.scanEnds dir report) := by
    have result := State.scanResult_ended live scanning job kind steps
    show execStoreScanEnd s = _
    rw [execStoreScanEnd, result]
    rfl
  refine ⟨(s.scanDone dir report).bootLoad.applyChannelBlock, ends.trans (congrArg _ (s.scanEnds_eq dir report)),
    by simp [State.scanDone, report], stage, scan, cause, fun i => ?_, by simp, by simp, by simp, by simp, by simp, by simp,
    by simp, by simp, fun unselected => ?_, unloaded, fun b slot boot selected => ?_⟩
  · exact State.applyChannelBlock_get _ i
  · rw [State.bootLoad_unselected unselected]
    exact ⟨rfl, rfl, rfl⟩
  · rw [State.bootLoad_selected boot selected]
    generalize read : (s.scanDone dir report).keepAutoRun b.autoRun = r
    have startup := (r.bootFrom_result slot).1
    obtain ⟨empty, entered⟩ := r.bootFrom_spec slot
    subst read
    refine ⟨congrArg Startup.bootSlot startup, congrArg Startup.autoRun startup, empty, fun bank e current entry => ?_⟩
    obtain ⟨recordBad, recordGood⟩ := entered bank e current entry
    refine ⟨recordBad, fun p crc body => ⟨(recordGood p crc body).1, fun passes => ?_⟩⟩
    have installed := (recordGood p crc body).2 passes
    rw [installed]
    exact ⟨rfl, rfl, rfl, rfl⟩

end Sys2Proof.Machine

end

section
/-! The commit checks and the expansion (R40 to R45): what each check means, and the edges of the timeline. -/

set_option Elab.async false

namespace Sys2Proof.Machine

/-! ## Occurrences and their edges (R41, R42) -/

theorem Entry.mem_occurrences (e : Entry) (k : Nat) : k ∈ e.occurrences ↔ k < e.repetition.1 := by
  simp [Entry.occurrences]

theorem Entry.occursAt_iff (e : Entry) (k x : Nat) : e.occursAt k x ↔ k ∈ e.occurrences ∧ x = e.phaseOf k := by
  rw [Entry.mem_occurrences]
  cases rep : e.rep with
  | none => simp +contextual [Entry.occursAt, Entry.phaseOf, Entry.repetition, rep]
  | some r => simp [Entry.occursAt, Entry.phaseOf, Entry.repetition, rep]

theorem Entry.edgeAt_iff (e : Entry) (k x : Nat) : e.edgeAt k x ↔ k ∈ e.occurrences ∧ x ∈ e.edgePhases k := by
  simp only [Entry.edgeAt, Entry.occursAt_iff, and_assoc, exists_and_left, exists_eq_left]
  cases action : e.action <;> simp [Entry.edgePhases, action]

theorem Entry.pulseHas_iff (e : Entry) (k x : Nat) :
    e.pulseHas k x ↔ k ∈ e.occurrences ∧ inPulse x (e.edgePhases k) = true := by
  simp only [Entry.pulseHas, Entry.occursAt_iff]
  cases action : e.action <;> simp [Entry.edgePhases, action, inPulse]

theorem Entry.edgePhases_ne_nil (e : Entry) (k : Nat) : ∃ x, x ∈ e.edgePhases k := by
  cases action : e.action <;> simp [Entry.edgePhases, action]

/-- Two occurrences clash where the model finds their edges too close. -/
theorem Entry.clashes_iff (e : Entry) (k : Nat) (f : Entry) (j : Nat) :
    e.clashes k f j ↔
      e.channel = f.channel ∧ k ∈ e.occurrences ∧ j ∈ f.occurrences ∧
        tooClose (e.edgePhases k) (f.edgePhases j) = true := by
  obtain ⟨x₀, hx₀⟩ := e.edgePhases_ne_nil k
  obtain ⟨y₀, hy₀⟩ := f.edgePhases_ne_nil j
  simp only [Entry.clashes, Entry.edgeAt_iff, Entry.pulseHas_iff, tooClose, Bool.or_eq_true, List.any_eq_true,
    decide_eq_true_eq]
  refine and_congr_right fun _ => ⟨?_, ?_⟩
  · rintro ⟨x, y, ⟨hk, hx⟩, ⟨hj, hy⟩, near | inF | inE⟩
    · exact ⟨hk, hj, .inl (.inl ⟨x, hx, y, hy, near⟩)⟩
    · exact ⟨hk, hj, .inl (.inr ⟨x, hx, inF.2⟩)⟩
    · exact ⟨hk, hj, .inr ⟨y, hy, inE.2⟩⟩
  · rintro ⟨hk, hj, (⟨x, hx, y, hy, near⟩ | ⟨x, hx, inF⟩) | ⟨y, hy, inE⟩⟩
    · exact ⟨x, y, ⟨hk, hx⟩, ⟨hj, hy⟩, .inl near⟩
    · exact ⟨x, y₀, ⟨hk, hx⟩, ⟨hj, hy₀⟩, .inr (.inl ⟨hj, inF⟩)⟩
    · exact ⟨x₀, y, ⟨hk, hx₀⟩, ⟨hj, hy⟩, .inr (.inr ⟨hk, inE⟩)⟩

theorem Entry.edgeCount_eq (e : Entry) : e.edgeCount = e.counts := by
  unfold Entry.edgeCount Entry.counts Entry.repetition
  cases e.action <;> cases e.rep <;> simp

/-! ## The first element of a table that fails -/

/-- Every element is right, given those before it. -/
def EachPasses {α : Type} (ok : List α → α → Prop) (l : List α) : Prop :=
  ∀ before e after, l = before ++ e :: after → ok before e

/-- The element so named is wrong, and those before it are right. -/
def FirstBlamed {α : Type} (ok : List α → α → Prop) (name : α → Nat) (l : List α) (subject : Option Nat) : Prop :=
  ∃ before e after, l = before ++ e :: after ∧ subject = some (name e) ∧ ¬ ok before e ∧
    ∀ b x a, before = b ++ x :: a → ok b x

section
variable {α : Type} {ok : List α → α → Prop} {name : α → Nat} {l : List α} {x : α} {r subject : Option Nat}

theorem EachPasses.nil : EachPasses ok [] := fun _ _ _ h => by simp at h

theorem eachPasses_cons : EachPasses ok (x :: l) ↔ ok [] x ∧ EachPasses (fun b => ok (x :: b)) l := by
  refine ⟨fun h => ⟨h [] x l rfl, fun b y a split => h (x :: b) y a (by rw [split]; rfl)⟩, ?_⟩
  rintro ⟨head, tail⟩ b y a split
  cases b with
  | nil => cases split; exact head
  | cons z b => cases split; exact tail b y a rfl

theorem firstBlamed_cons :
    FirstBlamed ok name (x :: l) subject ↔
      (¬ ok [] x ∧ subject = some (name x)) ∨ (ok [] x ∧ FirstBlamed (fun b => ok (x :: b)) name l subject) := by
  constructor
  · rintro ⟨b, y, a, split, named, bad, good⟩
    cases b with
    | nil => cases split; exact .inl ⟨bad, named⟩
    | cons z b =>
      cases split
      obtain ⟨head, tail⟩ := eachPasses_cons.1 good
      exact .inr ⟨head, b, y, a, rfl, named, bad, tail⟩
  · rintro (⟨bad, named⟩ | ⟨head, b, y, a, split, named, bad, good⟩)
    · exact ⟨[], x, l, rfl, named, bad, EachPasses.nil⟩
    · exact ⟨x :: b, y, a, by rw [split]; rfl, named, bad, eachPasses_cons.2 ⟨head, good⟩⟩

theorem FirstBlamed.not_eachPasses : FirstBlamed ok name l subject → ¬ EachPasses ok l :=
  fun ⟨b, y, a, split, _, bad, _⟩ passes => bad (passes b y a split)

theorem FirstBlamed.unique {other : Option Nat} (h : FirstBlamed ok name l subject) (h' : FirstBlamed ok name l other) :
    subject = other := by
  induction l generalizing ok with
  | nil => exact absurd EachPasses.nil h.not_eachPasses
  | cons x l ih =>
    rcases firstBlamed_cons.1 h with ⟨bad, named⟩ | ⟨good, rest⟩ <;>
      rcases firstBlamed_cons.1 h' with ⟨bad', named'⟩ | ⟨good', rest'⟩
    · exact named.trans named'.symm
    · exact absurd good' bad
    · exact absurd good bad'
    · exact ih rest rest'

/-- A search names the first element that fails, or none where each passes. -/
def FindsFirst {α : Type} (ok : List α → α → Prop) (name : α → Nat) (l : List α) : Option Nat → Prop
  | none => EachPasses ok l
  | some n => FirstBlamed ok name l (some n)

theorem FindsFirst.nil : FindsFirst ok name [] none := EachPasses.nil

theorem FindsFirst.cons_bad (bad : ¬ ok [] x) : FindsFirst ok name (x :: l) (some (name x)) :=
  firstBlamed_cons.2 (.inl ⟨bad, rfl⟩)

theorem FindsFirst.cons_good (good : ok [] x) (rest : FindsFirst (fun b => ok (x :: b)) name l r) :
    FindsFirst ok name (x :: l) r := by
  cases r with
  | none => exact eachPasses_cons.2 ⟨good, rest⟩
  | some n => exact firstBlamed_cons.2 (.inr ⟨good, rest⟩)

theorem FindsFirst.none_iff (h : FindsFirst ok name l r) : r = none ↔ EachPasses ok l := by
  cases r with
  | none => exact iff_of_true rfl h
  | some n => exact iff_of_false (Option.some_ne_none n) h.not_eachPasses

theorem FindsFirst.blamed_iff (h : FindsFirst ok name l r) :
    (∃ n, r = some n ∧ subject = some n) ↔ FirstBlamed ok name l subject := by
  constructor
  · rintro ⟨n, rfl, rfl⟩
    exact h
  · intro blamed
    cases r with
    | none => exact absurd h blamed.not_eachPasses
    | some n => exact ⟨n, rfl, blamed.unique h⟩

theorem findsFirst_find (ok : α → Prop) (bad : α → Bool) (decides : ∀ x, bad x = true ↔ ¬ ok x) (l : List α) :
    FindsFirst (fun _ => ok) name l ((l.find? bad).map name) := by
  induction l with
  | nil => exact .nil
  | cons x l ih =>
    by_cases h : bad x = true
    · rw [List.find?_cons_of_pos h]
      exact .cons_bad ((decides x).1 h)
    · rw [List.find?_cons_of_neg h]
      exact .cons_good (not_not.1 fun no => h ((decides x).2 no)) ih

theorem eachPasses_const (ok : α → Prop) : EachPasses (fun _ => ok) l ↔ ∀ x ∈ l, ok x := by
  refine ⟨fun h x mem => ?_, fun h b x a split => h x (split ▸ by simp)⟩
  obtain ⟨b, a, split⟩ := List.append_of_mem mem
  exact h b x a split

theorem firstBlamed_const (ok : α → Prop) :
    FirstBlamed (fun _ => ok) name l subject ↔
      ∃ before e after, l = before ++ e :: after ∧ subject = some (name e) ∧ ¬ ok e ∧ ∀ x ∈ before, ok x :=
  exists_congr fun _ => exists_congr fun _ => exists_congr fun _ => and_congr_right fun _ => and_congr_right fun _ =>
    and_congr_right fun _ => eachPasses_const ok

end

/-! ## The searches of the commit checks (R40 to R43) -/

theorem clashes_eq_false {seen own : List (List Nat)} :
    clashes seen own = false ↔
      (∀ o ∈ own, ∀ a ∈ seen, tooClose o a = false) ∧ own.Pairwise fun a o => tooClose o a = false := by
  induction own generalizing seen with
  | nil => simp [clashes]
  | cons o rest ih =>
    simp only [clashes, Bool.or_eq_false_iff, List.any_eq_false, ih, List.forall_mem_cons, List.pairwise_cons]
    grind

/-- The occurrences laid down by some entries, with their channels. -/
def laidDown (entries : List Entry) : List (Fin 8 × List Nat) :=
  entries.flatMap fun e => (e.occurrences.map e.edgePhases).map fun o => (e.channel, o)

theorem mem_laidDown {entries : List Entry} {channel : Fin 8} {o : List Nat} :
    (channel, o) ∈ laidDown entries ↔
      ∃ f ∈ entries, f.channel = channel ∧ ∃ j ∈ f.occurrences, f.edgePhases j = o := by
  simp only [laidDown, List.mem_flatMap, List.mem_map, Prod.mk.injEq]
  grind

/-- An entry's occurrences keep clear of each other and of those of the entries before it (R42). -/
def keepsClear (before : List Entry) (e : Entry) : Prop :=
  (∀ k j, j < k → ¬ e.clashes k e j) ∧ ∀ f ∈ before, ∀ k j, ¬ e.clashes k f j

theorem clashes_laidDown (before : List Entry) (e : Entry) :
    clashes (((laidDown before).filter fun o => decide (o.1 = e.channel)).map Prod.snd)
        (e.occurrences.map e.edgePhases) = false ↔ keepsClear before e := by
  have own : (e.occurrences.map e.edgePhases).Pairwise (fun a o => tooClose o a = false) ↔
      ∀ k j, j < k → ¬ e.clashes k e j := by
    rw [List.pairwise_map, Entry.occurrences, List.pairwise_iff_getElem]
    simp only [List.length_range, List.getElem_range, Entry.clashes_iff, Entry.mem_occurrences]
    grind
  have others : (∀ o ∈ e.occurrences.map e.edgePhases,
      ∀ a ∈ ((laidDown before).filter fun o => decide (o.1 = e.channel)).map Prod.snd, tooClose o a = false) ↔
      ∀ f ∈ before, ∀ k j, ¬ e.clashes k f j := by
    simp only [List.mem_map, List.mem_filter, decide_eq_true_eq, Prod.exists, mem_laidDown, Entry.clashes_iff]
    constructor
    · rintro clear f mem k j ⟨channel, hk, hj, close⟩
      have apart := clear _ ⟨k, hk, rfl⟩ _ ⟨e.channel, _, ⟨⟨f, mem, channel.symm, j, hj, rfl⟩, rfl⟩, rfl⟩
      exact absurd close (by simp [apart])
    · rintro clear _ ⟨k, hk, rfl⟩ _ ⟨_, _, ⟨⟨f, mem, channel, j, hj, rfl⟩, rfl⟩, rfl⟩
      exact Bool.eq_false_iff.2 fun close => clear f mem k j ⟨channel.symm, hk, hj, close⟩
  rw [clashes_eq_false, own, others, keepsClear, and_comm]

theorem firstTooClose_finds (before entries : List Entry) :
    FindsFirst (fun b => keepsClear (before ++ b)) Entry.id entries (firstTooClose (laidDown before) entries) := by
  induction entries generalizing before with
  | nil => exact .nil
  | cons e rest ih =>
    rw [firstTooClose]
    have decides := clashes_laidDown before e
    split
    next hits => exact .cons_bad (by simpa [← decides] using hits)
    next clear =>
      have next : laidDown before ++ (e.occurrences.map e.edgePhases).map (fun o => (e.channel, o)) =
          laidDown (before ++ [e]) := by simp [laidDown]
      rw [next]
      refine .cons_good (by simpa [← decides] using clear) ?_
      simpa using ih (before ++ [e])

theorem firstOverBudget_finds (total : Nat) (entries : List Entry) :
    FindsFirst (fun b e => total + ((b ++ [e]).map Entry.counts).sum ≤ 256) Entry.id entries
      (firstOverBudget total entries) := by
  induction entries generalizing total with
  | nil => exact .nil
  | cons e rest ih =>
    rw [firstOverBudget, Entry.edgeCount_eq]
    split
    next beyond => exact .cons_bad (by simpa [Config.edgeBudget] using beyond)
    next within =>
      refine .cons_good (by simpa [Config.edgeBudget] using within) ?_
      simpa [Nat.add_assoc] using ih (total + e.counts)

theorem Entry.outside_iff (length : Nat) (e : Entry) :
    e.outside length = true ↔ ¬ ∀ k x, e.occursAt k x → x < length := by
  simp [Entry.outside, Entry.occursAt_iff]

theorem Entry.endsLate_iff (length : Nat) (e : Entry) :
    e.endsLate length = true ↔ ¬ ∀ k x w, e.occursAt k x → e.action = .pulse w → x + w ≤ length - 1 := by
  cases action : e.action <;> simp [Entry.endsLate, Entry.occursAt_iff, action]

theorem Window.bad_iff (p : Plan) (w : Window) : w.bad p.cycle.length = true ↔ ¬ p.windowPasses w := by
  simp [Window.bad, Plan.windowPasses]
  grind

/-! ## The first failing check (R40) -/

/-- What a check finds in a plan: nothing, or a failure with its subject. -/
def Plan.found (p : Plan) : Check → Option (Option Nat)
  | .cycleRange => if p.cycle.length < p.cycle.guard then some none else none
  | .startEdge => if p.cycle.source = .triggered ∧ p.cycle.startEdge = .none then some none else none
  | .offsetRange => ((p.entries.find? (Entry.outside p.cycle.length)).map Entry.id).map some
  | .pulseEnd => ((p.entries.find? (Entry.endsLate p.cycle.length)).map Entry.id).map some
  | .channelUnused =>
    ((p.entries.find? fun e => decide ((p.channels.get e.channel).use = .unused)).map Entry.id).map some
  | .edgeSpacing => (firstTooClose [] p.entries).map some
  | .edgeBudget => (firstOverBudget 0 p.entries).map some
  | .windowRange => ((p.windows.find? (Window.bad p.cycle.length)).map Window.id).map some

/-- What the search for a check in a table finds, in the words of the check. -/
theorem FindsFirst.found {α : Type} {ok : List α → α → Prop} {name : α → Nat} {l : List α} {r : Option Nat}
    (h : FindsFirst ok name l r) :
    (r.map some = none ↔ EachPasses ok l) ∧
      ∀ subject, r.map some = some subject ↔ ¬ EachPasses ok l ∧ FirstBlamed ok name l subject := by
  refine ⟨by rw [Option.map_eq_none_iff, h.none_iff], fun subject => ?_⟩
  rw [Option.map_eq_some_iff, ← h.blamed_iff (subject := subject)]
  refine ⟨?_, ?_⟩
  · rintro ⟨n, rfl, rfl⟩
    exact ⟨h.not_eachPasses, n, rfl, rfl⟩
  · rintro ⟨-, n, rfl, rfl⟩
    exact ⟨n, rfl, rfl⟩

theorem Plan.found_spec (p : Plan) (check : Check) :
    (p.found check = none ↔ p.passes check) ∧
      ∀ subject, p.found check = some subject ↔ ¬ p.passes check ∧ p.blames check subject := by
  cases check with
  | cycleRange => simp [Plan.found, Plan.passes, Plan.blames, eq_comm]
  | startEdge => simp [Plan.found, Plan.passes, Plan.blames, eq_comm]
  | offsetRange => exact (findsFirst_find _ _ (Entry.outside_iff _) p.entries).found
  | pulseEnd => exact (findsFirst_find _ _ (Entry.endsLate_iff _) p.entries).found
  | channelUnused =>
    refine (findsFirst_find (fun e => (p.channels.get e.channel).use = .used) _ (fun e => ?_) p.entries).found
    cases use : (p.channels.get e.channel).use <;> simp
  | edgeSpacing => exact (firstTooClose_finds [] p.entries).found
  | edgeBudget =>
    have search := firstOverBudget_finds 0 p.entries
    simp only [Nat.zero_add] at search
    exact search.found
  | windowRange =>
    have search := (findsFirst_find (name := Window.id) _ _ (Window.bad_iff p) p.windows).found
    simp only [eachPasses_const, firstBlamed_const] at search
    exact search

/-- The commit checks in their order. -/
def checkOrder : List Check :=
  [.cycleRange, .startEdge, .offsetRange, .pulseEnd, .channelUnused, .edgeSpacing, .edgeBudget, .windowRange]

theorem mem_checkOrder (check : Check) : check ∈ checkOrder := by
  cases check <;> simp [checkOrder]

theorem checkOrder_sorted : checkOrder.Pairwise fun c d => c.code < d.code := by
  decide

theorem Plan.failure_eq (p : Plan) :
    p.failure = checkOrder.findSome? fun check => (p.found check).map fun subject => (check, subject) := by
  have orElse {α β : Type} (f : α → Option β) (a : α) (l : List α) :
      (a :: l).findSome? f = (f a).or (l.findSome? f) := by
    rw [List.findSome?_cons]
    cases f a <;> rfl
  simp only [checkOrder, orElse, List.findSome?_nil, Option.or_none]
  simp [Plan.failure, Plan.found, failedIf, failedBy, apply_ite, Function.comp_def]

theorem Plan.failure_none_iff (p : Plan) : p.failure = none ↔ ∀ check, p.passes check := by
  simp [Plan.failure_eq, (p.found_spec _).1, mem_checkOrder]

theorem Plan.failure_some {p : Plan} {check : Check} {subject : Option Nat} (fails : p.failure = some (check, subject)) :
    p.found check = some subject ∧ ∀ c, c.code < check.code → p.passes c := by
  rw [Plan.failure_eq, List.findSome?_eq_some_iff] at fails
  obtain ⟨lower, c, upper, order, finds, lowerPass⟩ := fails
  obtain ⟨_, found, same⟩ := Option.map_eq_some_iff.1 finds
  cases same
  refine ⟨found, fun d below => (p.found_spec d).1.1 ?_⟩
  have sorted := checkOrder_sorted
  have mem := mem_checkOrder d
  rw [order] at sorted mem
  have above : ∀ b ∈ upper, check.code < b.code := (List.pairwise_cons.1 (List.pairwise_append.1 sorted).2.1).1
  rcases List.mem_append.1 mem with first | rest
  · simpa using lowerPass d first
  · rcases List.mem_cons.1 rest with rfl | last
    · exact absurd below (lt_irrefl _)
    · exact absurd below (above d last).asymm

theorem Check.code_injective {c d : Check} (h : c.code = d.code) : c = d := by
  revert h
  cases c <;> cases d <;> decide

theorem Plan.failure_some_iff (p : Plan) (check : Check) (subject : Option Nat) :
    p.failure = some (check, subject) ↔
      ¬ p.passes check ∧ (∀ c, c.code < check.code → p.passes c) ∧ p.blames check subject := by
  constructor
  · intro fails
    obtain ⟨found, lower⟩ := Plan.failure_some fails
    obtain ⟨wrong, blames⟩ := ((p.found_spec check).2 subject).1 found
    exact ⟨wrong, lower, blames⟩
  · rintro ⟨wrong, lower, blames⟩
    cases fails : p.failure with
    | none => exact absurd (p.failure_none_iff.1 fails check) wrong
    | some failure =>
      obtain ⟨c, s⟩ := failure
      obtain ⟨found, lower'⟩ := Plan.failure_some fails
      have same : c = check := Check.code_injective <| le_antisymm
        (not_lt.1 fun above => wrong (lower' check above))
        (not_lt.1 fun below => (((p.found_spec c).2 s).1 found).1 (lower c below))
      subst same
      rw [((p.found_spec c).2 subject).2 ⟨wrong, blames⟩] at found
      cases found
      rfl

/-! ## The edges of an entry (R45) -/

theorem Entry.mem_edgesOf (e : Entry) (k : Nat) (x : TEdge) :
    x ∈ e.edgesOf k ↔
      x.channel = e.channel ∧ x.entry = e.id ∧ x.every = e.every ∧ x.gate = e.gate ∧ x.occurrence = k ∧
        match e.action with
        | .on => x.phase = e.phaseOf k ∧ x.change = .toActive ∧ x.role = .single
        | .off => x.phase = e.phaseOf k ∧ x.change = .toInactive ∧ x.role = .single
        | .flip => x.phase = e.phaseOf k ∧ x.change = .flip ∧ x.role = .single
        | .pulse w =>
          x.phase = e.phaseOf k ∧ x.change = .toActive ∧ x.role = .pulseStart ∨
            x.phase = e.phaseOf k + w ∧ x.change = .toInactive ∧ x.role = .pulseEnd := by
  obtain ⟨phase, channel, change, role, entry, occurrence, every, gate⟩ := x
  cases action : e.action <;> simp only [Entry.edgesOf, action, List.mem_cons, List.not_mem_nil, or_false, TEdge.mk.injEq] <;>
    grind

theorem Entry.mem_edges (e : Entry) (x : TEdge) : x ∈ e.edges ↔ ∃ k ∈ e.occurrences, x ∈ e.edgesOf k := by
  simp [Entry.edges]

theorem Entry.mem_edges_iff_gives (e : Entry) (x : TEdge) : x ∈ e.edges ↔ e.gives x := by
  simp only [Entry.mem_edges, Entry.mem_edgesOf, Entry.gives, Entry.occursAt_iff]
  grind

theorem Entry.edgesOf_phase {e : Entry} {k : Nat} {x : TEdge} (mem : x ∈ e.edgesOf k) : x.phase ∈ e.edgePhases k := by
  obtain ⟨-, -, -, -, -, shape⟩ := (e.mem_edgesOf k x).1 mem
  cases action : e.action <;> simp only [action] at shape <;> simp only [Entry.edgePhases, action, List.mem_cons] <;>
    grind

theorem Entry.edges_length (e : Entry) : e.edges.length = e.counts := by
  have each (k : Nat) : (e.edgesOf k).length = match e.action with | .pulse _ => 2 | _ => 1 := by
    cases action : e.action <;> simp [Entry.edgesOf, action]
  rw [← Entry.edgeCount_eq]
  simp only [Entry.edges, List.length_flatten, List.map_map, Function.comp_def, each, List.map_const', List.sum_replicate,
    Entry.occurrences, List.length_range, Entry.edgeCount, smul_eq_mul]
  cases e.action <;> simp [Nat.mul_comm]

/-! ## The order of the timeline (R45) -/

/-- An edge may stand before another: by phase, then by channel. -/
def TEdge.upTo (x y : TEdge) : Prop := x.phase < y.phase ∨ x.phase = y.phase ∧ x.channel ≤ y.channel

/-- Two edges have not both their phase and their channel alike. -/
def TEdge.apart (x y : TEdge) : Prop := ¬ (x.phase = y.phase ∧ x.channel = y.channel)

theorem TEdge.apart_symm {x y : TEdge} (h : x.apart y) : y.apart x := fun ⟨phase, channel⟩ =>
  h ⟨phase.symm, channel.symm⟩

theorem TEdge.before_iff (x y : TEdge) : x.before y = true ↔ ¬ y.upTo x := by
  simp only [TEdge.before, TEdge.upTo, decide_eq_true_eq, Fin.le_def]
  omega

theorem insertEdge_perm (x : TEdge) (l : List TEdge) : (insertEdge x l).Perm (x :: l) := by
  induction l with
  | nil => exact .refl _
  | cons y rest ih =>
    rw [insertEdge]
    split
    · exact .refl _
    · exact (ih.cons y).trans (.swap x y rest)

theorem insertEdge_sorted (x : TEdge) {l : List TEdge} (sorted : l.Pairwise TEdge.upTo) :
    (insertEdge x l).Pairwise TEdge.upTo := by
  induction l with
  | nil => exact List.pairwise_singleton _ _
  | cons y rest ih =>
    obtain ⟨first, others⟩ := List.pairwise_cons.1 sorted
    rw [insertEdge]
    split
    next earlier =>
      have lower : ∀ z, y.upTo z → x.upTo z := fun z after => by
        rw [TEdge.before_iff] at earlier
        simp only [TEdge.upTo, Fin.le_def] at *
        omega
      refine List.pairwise_cons.2 ⟨fun z mem => ?_, sorted⟩
      rcases List.mem_cons.1 mem with rfl | mem
      · exact lower z (.inr ⟨rfl, le_refl _⟩)
      · exact lower z (first z mem)
    next later =>
      refine List.pairwise_cons.2 ⟨fun z mem => ?_, ih others⟩
      rcases List.mem_cons.1 ((insertEdge_perm x rest).mem_iff.1 mem) with rfl | mem
      · exact not_not.1 fun no => later ((z.before_iff y).2 no)
      · exact first z mem

theorem insertEdges_perm (xs acc : List TEdge) : (xs.foldl (fun acc x => insertEdge x acc) acc).Perm (xs ++ acc) := by
  induction xs generalizing acc with
  | nil => exact .refl _
  | cons x xs ih => exact (ih _).trans (((insertEdge_perm x acc).append_left xs).trans List.perm_middle)

theorem insertEdges_sorted (xs : List TEdge) {acc : List TEdge} (sorted : acc.Pairwise TEdge.upTo) :
    (xs.foldl (fun acc x => insertEdge x acc) acc).Pairwise TEdge.upTo := by
  induction xs generalizing acc with
  | nil => exact sorted
  | cons x xs ih => exact ih (insertEdge_sorted x sorted)

theorem Plan.expand_perm (p : Plan) : p.expand.Perm (p.entries.map Entry.edges).flatten := by
  have perm := insertEdges_perm (p.entries.map Entry.edges).flatten []
  rwa [List.append_nil] at perm

theorem Plan.expand_sorted (p : Plan) : p.expand.Pairwise TEdge.upTo := insertEdges_sorted _ .nil

theorem Plan.mem_expand (p : Plan) (x : TEdge) : x ∈ p.expand ↔ ∃ e ∈ p.entries, e.gives x := by
  simp [p.expand_perm.mem_iff, Entry.mem_edges_iff_gives]

theorem Plan.expand_length (p : Plan) : p.expand.length = (p.entries.map Entry.counts).sum := by
  simp [p.expand_perm.length_eq, List.length_flatten, Function.comp_def, Entry.edges_length]

/-! ## A plan that passes has no two edges at one phase of one channel (R42, R45) -/

/-- Occurrences that do not clash have no edge of one phase on one channel. -/
theorem Entry.edgesOf_apart {e f : Entry} {k j : Nat} (hk : k ∈ e.occurrences) (hj : j ∈ f.occurrences)
    (clear : ¬ e.clashes k f j) {x y : TEdge} (hx : x ∈ f.edgesOf j) (hy : y ∈ e.edgesOf k) : x.apart y := by
  rintro ⟨phase, channel⟩
  obtain ⟨ofF, -⟩ := (f.mem_edgesOf j x).1 hx
  obtain ⟨ofE, -⟩ := (e.mem_edgesOf k y).1 hy
  refine clear ⟨ofE.symm.trans (channel.symm.trans ofF), y.phase, x.phase,
    (e.edgeAt_iff k _).2 ⟨hk, Entry.edgesOf_phase hy⟩, (f.edgeAt_iff j _).2 ⟨hj, Entry.edgesOf_phase hx⟩, .inl ?_⟩
  omega

theorem Entry.edgesOf_pairwise (e : Entry) (wide : ∀ w, e.action = .pulse w → 1 ≤ w) (k : Nat) :
    (e.edgesOf k).Pairwise TEdge.apart := by
  cases action : e.action with
  | pulse w =>
    have := wide w action
    simp only [Entry.edgesOf, action, List.pairwise_pair, TEdge.apart]
    omega
  | _ => simp [Entry.edgesOf, action]

theorem Entry.edges_pairwise (e : Entry) (wide : ∀ w, e.action = .pulse w → 1 ≤ w)
    (clear : ∀ k j, j < k → ¬ e.clashes k e j) : e.edges.Pairwise TEdge.apart := by
  refine List.pairwise_flatten.2 ⟨fun l mem => ?_, List.pairwise_map.2 ?_⟩
  · obtain ⟨k, -, rfl⟩ := List.mem_map.1 mem
    exact e.edgesOf_pairwise wide k
  · refine (List.pairwise_lt_range (n := e.repetition.1)).imp_of_mem fun hj hk below x hx y hy => ?_
    exact Entry.edgesOf_apart hk hj (clear _ _ below) hx hy

theorem EachPasses.pairwise {α : Type} {R : α → α → Prop} {l : List α} (h : EachPasses (fun b e => ∀ f ∈ b, R f e) l) :
    l.Pairwise R := by
  induction l with
  | nil => exact .nil
  | cons x l ih =>
    have tail := (eachPasses_cons.1 h).2
    refine List.pairwise_cons.2 ⟨fun y mem => ?_, ih fun b y a split f mem => tail b y a split f (.tail _ mem)⟩
    obtain ⟨b, a, split⟩ := List.append_of_mem mem
    exact tail b y a split x (.head _)

theorem Plan.edges_apart {p : Plan} (ranges : p.inRange) (spaced : p.passes .edgeSpacing) :
    (p.entries.map Entry.edges).flatten.Pairwise TEdge.apart := by
  obtain ⟨-, -, -, -, -, -, -, entries, -⟩ := ranges
  have own : ∀ e ∈ p.entries, ∀ k j, j < k → ¬ e.clashes k e j := fun e mem => by
    obtain ⟨b, a, split⟩ := List.append_of_mem mem
    exact (spaced b e a split).1
  refine List.pairwise_flatten.2 ⟨fun l mem => ?_, List.pairwise_map.2 ?_⟩
  · obtain ⟨e, ofPlan, rfl⟩ := List.mem_map.1 mem
    obtain ⟨-, -, -, widths, -⟩ := entries e ofPlan
    exact e.edges_pairwise (fun w action => (widths w action).1) (own e ofPlan)
  · have clear : p.entries.Pairwise fun f e => ∀ k j, ¬ e.clashes k f j :=
      EachPasses.pairwise fun b e a split => (spaced b e a split).2
    refine clear.imp fun clear x hx y hy => ?_
    obtain ⟨j, hj, hx⟩ := (Entry.mem_edges _ x).1 hx
    obtain ⟨k, hk, hy⟩ := (Entry.mem_edges _ y).1 hy
    exact Entry.edgesOf_apart hk hj (clear k j) hx hy

theorem Plan.expand_strict {p : Plan} (ranges : p.inRange) (passes : p.failure = none) :
    p.expand.Pairwise fun x y => x.phase < y.phase ∨ x.phase = y.phase ∧ x.channel < y.channel := by
  have apart : p.expand.Pairwise TEdge.apart :=
    (p.expand_perm.pairwise_iff TEdge.apart_symm).2 (Plan.edges_apart ranges (p.failure_none_iff.1 passes _))
  refine (p.expand_sorted.and apart).imp fun {x y} ⟨upTo, apart⟩ => ?_
  simp only [TEdge.upTo, TEdge.apart, Fin.le_def, Fin.lt_def, Fin.ext_iff] at *
  omega

/-! ## PLAN_CHECK (R44) -/

/-- Settles O13: the report is the owner's, and the checks and the expansion mean what R40 to R45 say. -/
theorem planCheckReports : Obligations.PlanCheckReports := by
  refine ⟨fun s q ready params => ⟨fun passes => ?_, fun check subject fails => ?_⟩, fun p =>
    ⟨p.failure_none_iff, p.failure_some_iff, p.mem_expand, p.expand_length, p.expand_sorted, Plan.expand_strict⟩⟩
  · refine requestStep_reports (owner := planCheckOwner) rfl ready (readNothing_nil params) ?_
    rw [planCheckOwner, (s.taken_edits 16 q).1, passes]
  · refine requestStep_refused (owner := planCheckOwner) rfl ready (readNothing_nil params) ?_
    rw [planCheckOwner, (s.taken_edits 16 q).1, fails]

end Sys2Proof.Machine

end

section
/-! The requests of the Output Drivers (03 section 3.3), the counters (09 section 9.5), and the edge of the timeline that
is due (03 section 3.1). -/

-- The text is long enough that elaborating its proofs in threads of their own would exceed the memory limit.
set_option Elab.async false

namespace Sys2Proof.Machine

/-! ## Requests answered OK that change one part of the state -/

/-- A request whose owner changes the state in a way that neither reads nor writes the traffic of replies. -/
theorem requestStep_changes {π : Type} {code : Nat} {read : List Byte → Option π} {owner : π → State → Answer} {q : Req}
    {s : State} {p : π} {c : Instr} {f : State → State} (quiet : ∀ t, (f t).quiet = f t.quiet)
    (waiting : ∀ t, (f t).link.waiting = t.link.waiting) (hc : exec c s = requestStep code read owner q s)
    (h : s.ready code q) (hp : read q.params = some p) (changes : owner p (s.taken code q) = okay (f (s.taken code q))) :
    Answers c s code q (f s) .ok [] := by
  have agrees : (f (s.taken code q)).agrees (f s) := by
    rw [State.agrees, quiet, quiet, show (s.taken code q).quiet = s.quiet from s.taken_agrees code q]
  exact requestStep_answers hc h hp (by rwa [changes]) (by rw [changes]; rfl) (by rw [changes]; rfl)
    (by rw [changes]; simp [okay, waiting])

/-- A request whose owner changes one channel (R65 to R68). -/
theorem requestStep_onChannel {π : Type} {code : Nat} {read : List Byte → Option π} {owner : π → State → Answer} {q : Req}
    {s : State} {p : π} {c : Instr} {i : Fin 8} {f : Channel → Channel} (hc : exec c s = requestStep code read owner q s)
    (h : s.ready code q) (hp : read q.params = some p)
    (changes : owner p (s.taken code q) = okay ((s.taken code q).onChannel i f)) :
    Answers c s code q { s with channels := s.channels.set i (f (s.channels.get i)) } .ok [] :=
  requestStep_changes (f := fun t => t.onChannel i f) (fun _ => rfl) (fun _ => rfl) hc h hp changes

/-! ## CHANNEL_HOLD and CHANNEL_RELEASE (R65, R68) -/

theorem channelHoldOwner_out {n : Nat} (out : 8 ≤ n) (s : State) : channelHoldOwner n s = refuse s (.badValue 1) := by
  rw [channelHoldOwner, finOfCode_none.mpr out]

theorem channelHoldOwner_fin (i : Fin 8) (s : State) :
    channelHoldOwner i.val s =
      if s.stopAsserted then refuse s .inhibited else okay (s.onChannel i Channel.taken) := by
  rw [channelHoldOwner, finOfCode_iff.mpr rfl]

theorem channelReleaseOwner_out {n : Nat} (out : 8 ≤ n) (s : State) :
    channelReleaseOwner n s = refuse s (.badValue 1) := by
  rw [channelReleaseOwner, finOfCode_none.mpr out]

theorem channelReleaseOwner_fin (i : Fin 8) (s : State) :
    channelReleaseOwner i.val s = okay (s.onChannel i Channel.released) := by
  rw [channelReleaseOwner, finOfCode_iff.mpr rfl]

/-- What holding makes of a channel (R65). -/
theorem Channel.taken_spec (c : Channel) :
    (c.hold = .held → c.taken = c) ∧
      (c.hold = .free → c.use = .used → c.taken = { c with hold := .held }) ∧
      (c.hold = .free → c.use = .unused → c.taken = { c with hold := .held, drive := .driven, level := .inactive }) := by
  refine ⟨fun held => ?_, fun free used => ?_, fun free unused => ?_⟩
  · rw [Channel.taken, held]
  · rw [Channel.taken, free, used]
  · rw [Channel.taken, free, unused]

theorem Use.drive_eq (u : Use) : u.drive = if u = .used then .driven else .highZ := by cases u <;> rfl

/-- What releasing makes of a channel (R68). -/
theorem Channel.released_spec (c : Channel) :
    (c.hold = .free → c.released = c) ∧
      (c.hold = .held →
        c.released =
          { c with
            hold := .free, level := .inactive, manual := none, drive := if c.use = .used then .driven else .highZ }) := by
  refine ⟨fun free => ?_, fun held => ?_⟩
  · rw [Channel.released, free]
  · rw [Channel.released, held, Use.drive_eq]

/-- Settles O16: a channel out of range, the STOP line, then what the request makes of the channel. -/
theorem channelHoldAndReleaseTakeAndFree : Obligations.ChannelHoldAndReleaseTakeAndFree := by
  refine ⟨fun s q n ready params => ?_, fun s q n ready params => ?_⟩
  · have read := readOne_singleton params
    have stop : (s.taken 19 q).stopAsserted = s.stopAsserted := by simp
    refine ⟨fun out => requestStep_refused rfl ready read (channelHoldOwner_out out _), fun inside asserted => ?_,
      fun i number released => ⟨_, requestStep_onChannel (f := Channel.taken) rfl ready read ?_, Channel.taken_spec _⟩⟩
    · exact requestStep_refused rfl ready read
        ((channelHoldOwner_fin ⟨n.toNat, inside⟩ _).trans (if_pos (stop.trans asserted)))
    · rw [number, channelHoldOwner_fin, stop, released]
      rfl
  · have read := readOne_singleton params
    refine ⟨fun out => requestStep_refused rfl ready read (channelReleaseOwner_out out _),
      fun i number => ⟨_, requestStep_onChannel (f := Channel.released) rfl ready read ?_, Channel.released_spec _⟩⟩
    rw [number, channelReleaseOwner_fin]

/-! ## CHANNEL_SET and CHANNEL_PULSE (R66, R67) -/

/-- The four answers of a claim on a channel, in the order of its tests (R66). -/
theorem heldIdle_spec (s : State) (i : Fin 8) (taken : State) :
    (s.stopAsserted = true → heldIdle s i taken = refuse s .inhibited) ∧
      (s.stopAsserted = false → (s.channels.get i).hold = .free → heldIdle s i taken = refuse s .notHeld) ∧
      (s.stopAsserted = false → (s.channels.get i).hold = .held → (s.channels.get i).manual ≠ none →
        heldIdle s i taken = refuse s .channelBusy) ∧
      (s.stopAsserted = false → (s.channels.get i).hold = .held → (s.channels.get i).manual = none →
        heldIdle s i taken = okay taken) := by
  unfold heldIdle
  refine ⟨fun asserted => ?_, fun released free => ?_, fun released held busy => ?_, fun released held idle => ?_⟩
  · simp [asserted]
  · simp [released, free]
  · simp [released, held, Option.isSome_iff_ne_none.mpr busy]
  · simp [released, held, idle]

/-- A request whose owner claims a HELD, idle channel once its fields are in range. -/
theorem requestStep_claims {π : Type} {code : Nat} {read : List Byte → Option π} {owner : π → State → Answer} {q : Req}
    {s : State} {p : π} {c : Instr} {i : Fin 8} {f : Channel → Channel} (hc : exec c s = requestStep code read owner q s)
    (h : s.ready code q) (hp : read q.params = some p) (claims : ∀ t, owner p t = heldIdle t i (t.onChannel i f)) :
    (s.stopAsserted = true → Answers c s code q s .inhibited []) ∧
      (s.stopAsserted = false → (s.channels.get i).hold = .free → Answers c s code q s .notHeld []) ∧
      (s.stopAsserted = false → (s.channels.get i).hold = .held → (s.channels.get i).manual ≠ none →
        Answers c s code q s .channelBusy []) ∧
      (s.stopAsserted = false → (s.channels.get i).hold = .held → (s.channels.get i).manual = none →
        Answers c s code q { s with channels := s.channels.set i (f (s.channels.get i)) } .ok []) := by
  obtain ⟨inhibited, notHeld, busy, takes⟩ := heldIdle_spec (s.taken code q) i ((s.taken code q).onChannel i f)
  simp only [State.taken_shared, State.taken_keeps] at inhibited notHeld busy takes
  exact ⟨fun asserted => requestStep_refused hc h hp ((claims _).trans (inhibited asserted)),
    fun released free => requestStep_refused hc h hp ((claims _).trans (notHeld released free)),
    fun released held pulse => requestStep_refused hc h hp ((claims _).trans (busy released held pulse)),
    fun released held idle => requestStep_onChannel hc h hp ((claims _).trans (takes released held idle))⟩

theorem Level.ofCode_toNat {l : Byte} (range : l.toNat ≤ 1) :
    Level.ofCode l.toNat = some (if l = 0 then .active else .inactive) := by
  obtain zero | one : l.toNat = 0 ∨ l.toNat = 1 := by omega
  · obtain rfl : l = 0 := BitVec.eq_of_toNat_eq zero
    rfl
  · obtain rfl : l = 1 := BitVec.eq_of_toNat_eq one
    rfl

theorem Level.ofCode_none {n : Nat} (out : 1 < n) : Level.ofCode n = none := by
  obtain ⟨k, rfl⟩ := Nat.exists_eq_add_of_lt out
  rw [show 1 + k + 1 = k + 2 by omega]
  rfl

theorem channelSetOwner_out {f : Nat × Nat} (out : 8 ≤ f.1) (s : State) :
    channelSetOwner f s = refuse s (.badValue 1) := by
  rw [channelSetOwner, finOfCode_none.mpr out]

theorem channelSetOwner_badLevel {f : Nat × Nat} (inside : f.1 < 8) (out : 1 < f.2) (s : State) :
    channelSetOwner f s = refuse s (.badValue 2) := by
  have number : finOfCode 8 f.1 = some ⟨f.1, inside⟩ := finOfCode_iff.mpr rfl
  rw [channelSetOwner, number, Level.ofCode_none out]

theorem channelSetOwner_inRange {f : Nat × Nat} {i : Fin 8} {level : Level} (number : f.1 = i.val)
    (decodes : Level.ofCode f.2 = some level) (s : State) :
    channelSetOwner f s = heldIdle s i (s.onChannel i (Channel.setTo level)) := by
  rw [channelSetOwner, finOfCode_iff.mpr number, decodes]

theorem channelPulseOwner_out {f : Nat × Nat} (out : 8 ≤ f.1) (s : State) :
    channelPulseOwner f s = refuse s (.badValue 1) := by
  rw [channelPulseOwner, finOfCode_none.mpr out]

theorem channelPulseOwner_fin {f : Nat × Nat} {i : Fin 8} (number : f.1 = i.val) (s : State) :
    channelPulseOwner f s =
      if f.2 = 0 then refuse s (.badValue 2) else heldIdle s i (s.onChannel i (Channel.pulsed f.2)) := by
  rw [channelPulseOwner, finOfCode_iff.mpr number]

theorem readPulse_be2 {params : List Byte} {n : Byte} {w : Nat} (h : params = n :: be2 w) (range : w ≤ 65535) :
    readPulse params = some (n.toNat, w) := by
  have width : read2 (be2 w) = some (w, []) := read2_iff.mpr ⟨by omega, by simp⟩
  subst h
  simp [readPulse, readBoth, read1, width, allRead]

/-- Settles O17: the fields in their order, then the claim on the channel. -/
theorem channelSetAndPulseNeedAHeldIdleChannel : Obligations.ChannelSetAndPulseNeedAHeldIdleChannel := by
  refine ⟨fun s q n l ready params => ?_, fun s q n w ready params upTo => ?_⟩
  · have read := readTwo_pair params
    exact ⟨fun out => requestStep_refused rfl ready read (channelSetOwner_out out _),
      fun inside out => requestStep_refused rfl ready read (channelSetOwner_badLevel inside out _),
      fun i number range =>
        requestStep_claims rfl ready read (channelSetOwner_inRange number (Level.ofCode_toNat range))⟩
  · have read := readPulse_be2 params upTo
    refine ⟨fun out => requestStep_refused rfl ready read (channelPulseOwner_out out _), fun inside zero => ?_,
      fun i number positive =>
        requestStep_claims (f := Channel.pulsed w) rfl ready read fun t => (channelPulseOwner_fin number t).trans ?_⟩
    · exact requestStep_refused rfl ready read
        ((channelPulseOwner_fin (i := ⟨n.toNat, inside⟩) rfl _).trans (if_pos zero))
    · exact if_neg (Nat.one_le_iff_ne_zero.mp positive)

/-! ## COUNTERS_READ and COUNTERS_CLEAR (R157, R158) -/

theorem Group.ofCode_none {n : Nat} (out : 3 < n) : Group.ofCode n = none := by
  obtain ⟨k, rfl⟩ := Nat.exists_eq_add_of_lt out
  rw [show 3 + k + 1 = k + 4 by omega]
  rfl

/-- What taking a request changes of the link and the session is in no group. -/
theorem State.taken_groupBytes (s : State) (code : Nat) (q : Req) (g : Group) :
    (s.taken code q).groupBytes g = s.groupBytes g := by
  cases g <;> simp [State.groupBytes]

theorem State.groupCleared_quiet (s : State) (g : Group) : (s.groupCleared g).quiet = s.quiet.groupCleared g := by
  cases g <;> rfl

theorem State.groupCleared_waiting (s : State) (g : Group) :
    (s.groupCleared g).link.waiting = s.link.waiting := by
  cases g <;> rfl

theorem countersRead_group {s : State} {q : Req} {b : Byte} {g : Group} (ready : s.ready 37 q) (params : q.params = [b])
    (named : Group.ofCode b.toNat = some g) : Answers (.countersRead q) s 37 q s .ok (s.groupBytes g) := by
  refine requestStep_reports (owner := countersReadOwner) rfl ready (readOne_singleton params) ?_
  rw [countersReadOwner, named, ← s.taken_groupBytes 37 q]

theorem countersClear_group {s : State} {q : Req} {b : Byte} {g : Group} (ready : s.ready 38 q) (params : q.params = [b])
    (named : Group.ofCode b.toNat = some g) : Answers (.countersClear q) s 38 q (s.groupCleared g) .ok [] := by
  refine requestStep_changes (owner := countersClearOwner) (f := fun t => t.groupCleared g)
    (fun t => t.groupCleared_quiet g) (fun t => t.groupCleared_waiting g) rfl ready (readOne_singleton params) ?_
  rw [countersClearOwner, named]

/-- What COUNTERS_READ shows of a window id, spelled out: its first row's state, with the first hit when MET (R98). -/
theorem Monitor.idBytes_eq (m : Monitor) (k : Fin 15) :
    m.idBytes k =
      (match m.table.find? fun w => decide (w.window.id = k.val + 1) with
        | none => [0x00#8]
        | some w =>
          [0x01#8] ++
            (match w.state, w.hit with
              | .pending, _ => [0x00#8, 0x00#8]
              | .opened, _ => [0x01#8, 0x00#8]
              | .met, some hit => [0x02#8, 0x01#8] ++ be3 hit
              | .met, none => [0x02#8, 0x00#8]
              | .missed, _ => [0x03#8, 0x00#8]
              | .abandoned, _ => [0x04#8, 0x00#8])) ++
        be4 (m.tallies.get k).met ++ be4 (m.tallies.get k).missed ++ be4 (m.tallies.get k).cut := by
  rw [Monitor.idBytes, WindowTally.bytes, ← List.append_assoc, ← List.append_assoc]
  congr 3
  cases m.table.find? fun w => decide (w.window.id = k.val + 1) with
  | none => rfl
  | some w =>
    obtain ⟨_, state, hit⟩ := w
    cases state <;> cases hit <;> rfl

/-- Settles O29: the group that the code names, or none. -/
theorem countersReadAndClearAGroup : Obligations.CountersReadAndClearAGroup := by
  refine ⟨fun s q b ready params => ⟨?_, ?_, ?_, ?_, fun out => ?_⟩,
    fun s q b ready params => ⟨?_, ?_, ?_, ?_, fun out => ?_⟩⟩
  · rintro rfl
    exact countersRead_group ready params rfl
  · rintro rfl
    exact countersRead_group ready params rfl
  · rintro rfl
    have reads := countersRead_group (g := .windows) ready params rfl
    rw [State.groupBytes, funext s.monitor.idBytes_eq] at reads
    exact reads
  · rintro rfl
    exact countersRead_group ready params rfl
  · refine requestStep_refused (owner := countersReadOwner) rfl ready (readOne_singleton params) ?_
    rw [countersReadOwner, Group.ofCode_none out]
  · rintro rfl
    exact countersClear_group ready params rfl
  · rintro rfl
    exact countersClear_group ready params rfl
  · rintro rfl
    exact countersClear_group ready params rfl
  · rintro rfl
    exact countersClear_group ready params rfl
  · refine requestStep_refused (owner := countersClearOwner) rfl ready (readOne_singleton params) ?_
    rw [countersClearOwner, Group.ofCode_none out]

/-! ## TIMELINE_EDGE (R52, R53) -/

/-- Settles O42: the edge that is due is taken, which `State.takeEdge_spec` describes. -/
theorem timelineEdgeIsDecided : Obligations.TimelineEdgeIsDecided := by
  intro s e live due
  refine ⟨s.takeEdge e, ?_, s.takeEdge_spec e⟩
  change execTimelineEdge s = _
  rw [execTimelineEdge, due, live]
  rfl

end Sys2Proof.Machine

end

section
/-! The Capture Queue, the replies on their way and the store's state over every step (R82 to R86, R104, R141, R151). -/

-- The text is long enough that elaborating its proofs in threads of their own would exceed the memory limit.
set_option Elab.async false

namespace Sys2Proof.Machine

/-! ## The capture queue's form (R82, R85, R86) -/

/-- A record stored with room takes the next sequence, and an armed watermark that its level reaches is unarmed. -/
theorem Captures.store_ok {c : Captures} (ok : c.ok) (room : c.records.length < 128) (r : CaptureRecord) :
    (c.store r).ok := by
  obtain ⟨-, low, high, below, sequences⟩ := ok
  refine ⟨by simpa [Captures.store] using room, low, high, fun armed => ?_, fun k h => ?_⟩
  · simp only [Captures.store, Captures.fires, Bool.and_eq_true, Bool.not_eq_true', Bool.and_eq_false_iff,
      decide_eq_false_iff_not, List.length_append, List.length_singleton] at armed ⊢
    obtain ⟨armed, unarmed | reached⟩ := armed
    · rw [armed] at unarmed
      cases unarmed
    · have := below armed
      omega
  · have before : k < c.records.length ∨ k = c.records.length := by
      simp only [Captures.store, List.length_append, List.length_singleton] at h
      omega
    rcases before with old | rfl
    · have next : c.records.length + 1 - k = c.records.length - k + 1 := by omega
      simp only [Captures.store, List.length_append, List.length_singleton, List.getElem_append_left old, next,
        BitVec.ofNat_add, ← BitVec.add_assoc, sequences k old]
      rfl
    · simp [Captures.store]

/-- The queue without its oldest records stays in form, its watermark armed wherever the level is below it (R85, R87). -/
theorem Captures.removed_ok {c : Captures} (ok : c.ok) (n : Nat) : (c.removed n).ok := by
  obtain ⟨room, low, high, below, sequences⟩ := ok
  refine ⟨?_, low, high, fun armed => ?_, fun k h => ?_⟩
  · simp only [Captures.removed, Captures.rearm, List.length_drop]
    omega
  · simp only [Captures.removed, Captures.rearm, Bool.or_eq_true, decide_eq_true_eq, List.length_drop] at armed ⊢
    rcases armed with armed | level
    · have := below armed
      omega
    · exact level
  · simp only [Captures.removed, Captures.rearm, List.length_drop] at h ⊢
    rw [List.getElem_drop, show c.records.length - n - k = c.records.length - (n + k) by omega]
    exact sequences (n + k) (by omega)

theorem Captures.flushed_ok {c : Captures} (ok : c.ok) : c.flushed.ok := by
  obtain ⟨-, low, high, -, -⟩ := ok
  exact ⟨Nat.zero_le _, low, high, fun _ => low, nofun⟩

/-- An edge that becomes a record leaves the queue in form, stored or dropped (R82, R83). -/
theorem State.record_captures {s : State} (ok : s.captures.ok) (r : CaptureRecord) : (s.record r).captures.ok := by
  unfold State.record
  split
  · rename_i room
    dsimp only
    split <;> exact Captures.store_ok ok room r
  · exact ok

theorem State.watermarked_captures {s : State} {mark : Nat} (ok : s.captures.ok) (low : 1 ≤ mark) (high : mark ≤ 128) :
    (s.watermarked mark).captures.ok := by
  obtain ⟨room, -, -, -, sequences⟩ := ok
  have form : Captures.ok { s.captures with watermark := mark, armed := decide (s.captures.records.length < mark) } :=
    ⟨room, low, high, of_decide_eq_true, sequences⟩
  unfold State.watermarked
  dsimp only
  split <;> exact form

/-! ## The store's state (R104, R106) -/

/-- The store's state is in form by its status, the kind of its work and the stage of start-up alone. -/
theorem State.storeOk_iff (s : State) :
    s.storeOk ↔
      (s.store.status = .busy ↔ ∃ op, s.store.job.map Job.kind = some (.op op)) ∧
        (s.store.status = .starting ↔ s.startup.stage ≠ .booting ∧ s.startup.stage ≠ .complete) := by
  have works : (∃ job op, s.store.job = some job ∧ job.kind = .op op) ↔
      ∃ op, s.store.job.map Job.kind = some (.op op) := by
    cases s.store.job <;> simp
  rw [State.storeOk, works]

theorem State.storeOk.of_same {s t : State} (ok : s.storeOk) (status : t.store.status = s.store.status)
    (kind : t.store.job.map Job.kind = s.store.job.map Job.kind) (stage : t.startup.stage = s.startup.stage) :
    t.storeOk := by
  rw [State.storeOk_iff] at ok ⊢
  rwa [status, kind, stage]

/-- The end of an operation leaves READY or READ_ONLY, with no work (R106). -/
theorem State.endOp_storeOk {s : State} (ok : s.storeOk) (started : s.store.status ≠ .starting) (op : StoreOp)
    (result : StoreResult) (compacted worn : Bool) : (s.endOp op result compacted worn).storeOk := by
  obtain ⟨-, starting⟩ := ok
  have stage := mt starting.mpr started
  unfold State.storeOk State.endOp State.raise
  dsimp only
  split <;> simp [stage]

theorem State.beginOp_storeOk {s : State} (ok : s.storeOk) (started : s.store.status ≠ .starting) (op : StoreOp)
    (steps : List MediaStep) (worn : Bool) : (s.beginOp op steps worn).storeOk := by
  obtain ⟨-, starting⟩ := ok
  have stage := mt starting.mpr started
  simp [State.storeOk, State.beginOp, stage]

/-- Effects of a verified step change neither the status nor whose work it is (R105). -/
theorem StoreEffect.apply_form (st : Store) (e : StoreEffect) :
    ((e.apply st).status, (e.apply st).job.map Job.kind) = (st.status, st.job.map Job.kind) := by
  have kept (f : Job → Job) (kind : ∀ j, (f j).kind = j.kind) : (st.job.map f).map Job.kind = st.job.map Job.kind := by
    rw [Option.map_map]
    exact congrArg (fun g => st.job.map g) (funext kind)
  cases e with
  | becameCurrent bank => exact congrArg _ (kept _ fun _ => rfl)
  | repaired => exact congrArg _ (kept _ fun _ => rfl)
  | freshCounted bank count => cases bank <;> rfl
  | _ => rfl

theorem StoreEffect.applied_form (effects : List StoreEffect) (st : Store) :
    (effects.foldl StoreEffect.apply st).status = st.status ∧
      (effects.foldl StoreEffect.apply st).job.map Job.kind = st.job.map Job.kind :=
  Prod.mk.inj (foldl_keeps (fun st : Store => (st.status, st.job.map Job.kind)) _ StoreEffect.apply_form effects st)

/-- An operation under way is no part of start-up (R104, R106). -/
theorem State.storeOk.started {s : State} {job : Job} {op : StoreOp} (ok : s.storeOk) (under : s.store.job = some job)
    (kind : job.kind = .op op) : s.store.status ≠ .starting := by
  have busy : s.store.status = .busy := ok.1.mpr ⟨job, op, under, kind⟩
  rw [busy]
  decide

theorem State.stepVerified_storeOk {s : State} {job : Job} (ok : s.storeOk) (under : s.store.job = some job)
    (step : MediaStep) (rest : List MediaStep) : (s.stepVerified job step rest).storeOk := by
  obtain ⟨status, kind⟩ := StoreEffect.applied_form step.effects { s.store with job := some { job with steps := rest } }
  have applied : State.storeOk
      { s with store := step.effects.foldl StoreEffect.apply { s.store with job := some { job with steps := rest } } } :=
    ok.of_same status (kind.trans (by rw [under]; rfl)) rfl
  unfold State.stepVerified
  dsimp only
  split
  · rename_i op works
    exact State.endOp_storeOk applied (status ▸ ok.started under works) _ _ _ _
  · exact applied

theorem State.stepFailed_storeOk {s : State} {job : Job} (ok : s.storeOk) (under : s.store.job = some job) :
    (s.stepFailed job).storeOk := by
  unfold State.stepFailed
  split
  · rename_i op works
    exact State.endOp_storeOk ok (ok.started under works) _ _ _ _
  · exact ok.of_same rfl (by rw [under]; rfl) rfl

theorem State.programEnds_storeOk {s : State} {job : Job} (ok : s.storeOk) (under : s.store.job = some job)
    (faults : List Host.Cell) (step : MediaStep) (rest : List MediaStep) (bank : Bank) (offset : Nat) (data : List Byte) :
    (s.programEnds faults job step rest bank offset data).storeOk := by
  unfold State.programEnds
  dsimp only
  split
  · refine State.stepVerified_storeOk ?_ ?_ step rest <;> assumption
  · refine State.stepFailed_storeOk ?_ ?_ <;> assumption

theorem State.eraseEnds_storeOk {s : State} {job : Job} (ok : s.storeOk) (under : s.store.job = some job)
    (faults : List Host.Cell) (step : MediaStep) (rest : List MediaStep) (bank : Bank) :
    (s.eraseEnds faults job step rest bank).storeOk := by
  unfold State.eraseEnds
  dsimp only
  split
  · refine State.stepVerified_storeOk ?_ ?_ step rest <;> assumption
  · refine State.stepFailed_storeOk ?_ ?_ <;> assumption

theorem Media.scanJob_kind (m : Media) (op : StoreOp) : m.scanJob.kind ≠ .op op := by
  unfold Media.scanJob
  split
  · split <;> nofun
  · nofun

theorem State.begins_storeOk (s : State) (rate1 rate0 : Wire) : (s.begins rate1 rate0).storeOk := by
  simp [State.storeOk, State.begins, Media.scanning, Media.scanJob_kind]

theorem State.scanDone_storeOk (s : State) (found : Directory) (report : ScanReport) :
    (s.scanDone found report).storeOk := by
  unfold State.storeOk State.scanDone
  dsimp only
  split <;> simp

/-! ## The replies on their way and the reply cache (R141, R151) -/

/-- The reply cache's form (R151). -/
def cacheOk (cache : List CacheEntry) : Prop :=
  cache.length ≤ 4 ∧ (cache.map CacheEntry.tag).Nodup ∧ ∀ e ∈ cache, e.tag ≠ 0

theorem State.repliesOk_iff (s : State) : s.repliesOk ↔ s.link.outbox.length ≤ 2 ∧ cacheOk s.session.cache := Iff.rfl

theorem cacheOk.of_sublist {c c' : List CacheEntry} (ok : cacheOk c) (h : c'.Sublist c) : cacheOk c' := by
  obtain ⟨few, distinct, tagged⟩ := ok
  exact ⟨h.length_le.trans few, distinct.sublist (h.map _), fun e mem => tagged e (h.subset mem)⟩

/-- A new entry under a tag that no other has takes the newest place, the oldest of four leaving (R151). -/
theorem cacheWith_ok {c : List CacheEntry} {e : CacheEntry} (ok : cacheOk c) (fresh : ∀ x ∈ c, x.tag ≠ e.tag)
    (tagged : e.tag ≠ 0) : cacheOk (cacheWith c e) := by
  have kept : (c.drop (c.length - (Config.cacheDepth - 1))).Sublist c := List.drop_sublist _ _
  obtain ⟨-, distinct, others⟩ := ok.of_sublist kept
  refine ⟨?_, ?_, fun x mem => ?_⟩
  · simp only [cacheWith, Config.cacheDepth, List.length_append, List.length_drop, List.length_singleton]
    omega
  · rw [cacheWith, List.map_append, List.map_singleton]
    refine distinct.append (List.nodup_singleton _) ?_
    rw [List.disjoint_singleton]
    intro mem
    obtain ⟨x, mem, same⟩ := List.mem_map.mp mem
    exact fresh x (kept.subset mem) same
  · rw [cacheWith, List.mem_append, List.mem_singleton] at mem
    rcases mem with mem | rfl
    · exact others x mem
    · exact tagged

theorem State.arbitrate_outbox (s : State) : s.arbitrate.link.outbox.Sublist s.link.outbox := by
  unfold State.arbitrate
  split
  · exact .refl _
  · split
    · rename_i waits
      rw [waits]
      exact List.sublist_cons_self _ _
    · rw [State.beginNotice_outbox]

theorem State.send_outbox (s : State) (r : Reply) (first : Bool) :
    (s.send r first).link.outbox.length ≤ s.link.outbox.length + 1 := by
  refine (State.arbitrate_outbox _).length_le.trans ?_
  cases first <;> simp [State.putReply]

/-! ## What keeps the queues and the store in form -/

/-- What every happening but a request does: the capture queue and the store stay in form, replies and cache entries may go
but none comes. -/
structure State.FormKept (s t : State) : Prop where
  captures : s.captures.ok → t.captures.ok
  store : s.storeOk → t.storeOk
  outbox : t.link.outbox.Sublist s.link.outbox
  cache : t.session.cache.Sublist s.session.cache

theorem State.FormKept.refl (s : State) : s.FormKept s := ⟨id, id, .refl _, .refl _⟩

theorem State.FormKept.trans {s t u : State} (h : s.FormKept t) (h' : t.FormKept u) : s.FormKept u where
  captures := h'.captures ∘ h.captures
  store := h'.store ∘ h.store
  outbox := h'.outbox.trans h.outbox
  cache := h'.cache.trans h.cache

theorem State.FormKept.of_parts {s t : State} (captures : t.captures = s.captures := by simp)
    (store : t.store = s.store := by simp) (stage : t.startup.stage = s.startup.stage := by simp)
    (outbox : t.link.outbox = s.link.outbox := by simp) (cache : t.session.cache = s.session.cache := by simp) :
    s.FormKept t where
  captures := captures ▸ id
  store ok := ok.of_same (congrArg _ store) (by rw [store]) stage
  outbox := outbox ▸ .refl _
  cache := cache ▸ .refl _

/-- What touches the Capture Queue alone. -/
theorem State.FormKept.of_captures {s t : State} (captures : s.captures.ok → t.captures.ok)
    (store : t.store = s.store := by simp) (startup : t.startup = s.startup := by simp)
    (link : t.link = s.link := by simp) (session : t.session = s.session := by simp) : s.FormKept t where
  captures := captures
  store ok := ok.of_same (congrArg _ store) (by rw [store]) (congrArg _ startup)
  outbox := link ▸ .refl _
  cache := session ▸ .refl _

/-- What touches the Profile Store and the stage of start-up alone. -/
theorem State.FormKept.of_store {s t : State} (store : s.storeOk → t.storeOk)
    (captures : t.captures = s.captures := by simp) (link : t.link.outbox = s.link.outbox := by simp)
    (session : t.session = s.session := by simp) : s.FormKept t where
  captures := captures ▸ id
  store := store
  outbox := link ▸ .refl _
  cache := session ▸ .refl _

theorem State.FormKept.foldl {α : Type} {f : State → α → State} (h : ∀ (s : State) a, s.FormKept (f s a)) (l : List α)
    (s : State) : s.FormKept (l.foldl f s) := by
  induction l generalizing s with
  | nil => exact .refl s
  | cons a l ih => exact (h s a).trans (ih _)

theorem State.arbitrate_formKept (s : State) : s.FormKept s.arbitrate where
  captures := by simp
  store ok := ok.of_same (by simp) (by simp) (by simp)
  outbox := s.arbitrate_outbox
  cache := by simp

theorem State.FormKept.arbitrated {s t : State} (h : s.FormKept t) : s.FormKept t.arbitrate :=
  h.trans t.arbitrate_formKept

/-- A reset leaves the queues empty and the store STARTING with no work (R81, R104, R123, R135, R146). -/
theorem State.resetBy_formKept (s : State) (cause : ResetCause) (torn : List Host.Cell) (powered : Bool) :
    s.FormKept (s.resetBy cause torn powered) where
  captures _ :=
    show State.reset.captures.ok from ⟨by decide, by decide, by decide, fun _ => by decide, nofun⟩
  store _ := by simp [State.storeOk, State.resetBy, State.reset]
  outbox := List.nil_sublist _
  cache := List.nil_sublist _

/-! ## The frame assembler (R136 to R140) -/

theorem State.offer_formKept (s : State) (f : Frame) : s.FormKept (s.offer f) := by
  unfold State.offer
  split <;> exact .of_parts rfl rfl rfl rfl rfl

theorem State.countLink_formKept (s : State) (f : LinkCounters → LinkCounters) : s.FormKept (s.countLink f) :=
  .of_parts rfl rfl rfl rfl rfl

theorem State.withAsm_formKept (s : State) (a : Asm) : s.FormKept (s.withAsm a) := .of_parts rfl rfl rfl rfl rfl

theorem State.linkActivity_formKept (s : State) : s.FormKept s.linkActivity := by
  unfold State.linkActivity
  split <;> exact .of_parts rfl rfl rfl rfl rfl

theorem State.goodFrame_formKept (s : State) (f : Frame) : s.FormKept (s.goodFrame f) := by
  have counted := (s.countLink_formKept fun c => { c with framesGood := bump c.framesGood }).trans
    (State.linkActivity_formKept _)
  unfold State.goodFrame
  dsimp only
  split
  · exact counted.trans (State.offer_formKept _ f)
  · exact counted.trans (State.countLink_formKept _ _)

theorem State.linkEvent_formKept (s : State) (e : LinkEvent) : s.FormKept (s.linkEvent e) := by
  cases e with
  | good f => exact s.goodFrame_formKept f
  | _ => exact .of_parts rfl rfl rfl rfl rfl

theorem State.rescanned_formKept (s : State) (found : List LinkEvent × Asm) : s.FormKept (s.rescanned found) :=
  (State.FormKept.foldl State.linkEvent_formKept found.1 s).trans (State.withAsm_formKept _ _)

theorem State.checkFrame_formKept (s : State) : s.FormKept s.checkFrame := by
  unfold State.checkFrame
  split
  · exact s.withAsm_formKept _
  · split
    · exact (s.goodFrame_formKept _).trans (State.withAsm_formKept _ _)
    · exact (s.linkEvent_formKept .badCrc).trans (State.rescanned_formKept _ _)

theorem State.checkIfComplete_formKept (s : State) : s.FormKept s.checkIfComplete := by
  unfold State.checkIfComplete
  split
  · exact s.checkFrame_formKept
  · exact .refl s

theorem State.receive_formKept (s : State) (b : Byte) : s.FormKept (s.receive b) := by
  have examined := s.checkIfComplete_formKept.trans
    (State.withAsm_formKept _ (s.checkIfComplete.link.asm.examine b).1)
  unfold State.receive
  dsimp only
  split
  · exact examined.trans (State.linkEvent_formKept _ _)
  · exact examined

theorem State.frameArrives_formKept (s : State) (bytes : List Byte) : s.FormKept (s.frameArrives bytes) := by
  unfold State.frameArrives
  split
  · exact s.checkFrame_formKept
  · exact (State.FormKept.foldl State.receive_formKept _ s).trans (State.checkIfComplete_formKept _)

theorem State.characterArrives_formKept (s : State) (byte : Byte) (lineError : Bool) :
    s.FormKept (s.characterArrives byte lineError) := by
  unfold State.characterArrives
  split
  · exact (s.countLink_formKept _).trans (State.receive_formKept _ byte)
  · exact s.receive_formKept byte

theorem State.gapExpired_formKept (s : State) : s.FormKept s.gapExpired :=
  (s.linkEvent_formKept .gap).trans (State.rescanned_formKept _ _)

/-! ## Input edges, sessions and start-up -/

theorem State.controllerTakes_formKept (s : State) (i : Fin 4) (d : Slope) : s.FormKept (s.controllerTakes i d) := by
  have captures : s.captures.ok → (s.controllerTakes i d).captures.ok := by
    unfold State.controllerTakes
    cases s.decision i d with
    | early => exact id
    | _ => simp
  exact .of_captures captures

theorem State.captureEdge_formKept (before s : State) (i : Fin 4) (d : Slope) (window : Option Nat) :
    s.FormKept (State.captureEdge before s i d window) := by
  unfold State.captureEdge
  split
  · exact .of_captures fun ok => State.record_captures ok _
  · exact .refl s

/-- An input edge touches the Capture Queue alone, by the early counter and by the record (R77). -/
theorem State.takeInputEdge_formKept (s : State) (i : Fin 4) (d : Slope) (first : Bool) :
    s.FormKept (s.takeInputEdge i d first) := by
  obtain ⟨window, taken⟩ := s.takeInputEdge_eq i d first
  have led : s.FormKept (s.ledBy i d first) := by
    cases first with
    | true => exact State.FormKept.trans (t := s.monitorTakes i d) .of_parts (State.controllerTakes_formKept _ i d)
    | false =>
      exact (s.controllerTakes_formKept i d).trans (.of_parts (t := (s.controllerTakes i d).monitorTakes i d))
  rw [taken]
  exact led.trans (State.captureEdge_formKept _ _ _ _ _)

theorem State.inputEdges_formKept (s : State) (i : Fin 4) (d : Slope) : s.FormKept (s.inputEdges i d) :=
  State.FormKept.trans (t := { s.onInput i Filter.settle with choices := s.choices + 1 }) (.of_parts rfl rfl rfl rfl rfl)
    (State.takeInputEdge_formKept _ i d _)

theorem State.closeSession_formKept (s : State) : s.FormKept s.closeSession := .of_parts rfl rfl rfl rfl rfl

theorem State.lapses_formKept (s : State) : s.FormKept s.lapses := by
  unfold State.lapses
  dsimp only
  split
  · exact s.closeSession_formKept.trans .of_parts
  · exact s.closeSession_formKept

/-- The end of a frame resets the part behind a RESTART's reply, and touches the session or the notices otherwise (R142). -/
theorem State.frameLeft_formKept (s : State) (owner : TxOwner) : s.FormKept (s.frameLeft owner) := by
  cases owner with
  | notice number => exact .of_parts rfl rfl rfl rfl rfl
  | reply code status =>
    have counted := s.countLink_formKept fun c => { c with repliesSent := bump c.repliesSent }
    unfold State.frameLeft State.replyLeft
    dsimp only
    split
    · exact .of_parts rfl rfl rfl rfl rfl
    · split
      · exact counted.trans (State.resetBy_formKept _ _ _ _)
      · exact counted

theorem State.runStage_formKept (s : State) (booting : s.startup.stage = .booting) : s.FormKept s.runStage := by
  refine State.FormKept.arbitrated (.of_store (fun ok => ?_) (by simp) (by simp))
  obtain ⟨works, starting⟩ := ok
  have complete : s.autoRunStage.reportStage.startup.stage = .complete := rfl
  unfold State.storeOk
  rw [complete]
  simpa [booting] using And.intro works starting

theorem State.scanEnds_formKept (s : State) (found : Directory) (report : ScanReport) :
    s.FormKept (s.scanEnds found report) := by
  have stage := (s.scanDone found report).bootLoad_cases.1
  have booted : s.FormKept (s.scanDone found report).bootLoad.applyChannelBlock :=
    State.FormKept.trans (t := s.scanDone found report) (.of_store fun _ => s.scanDone_storeOk found report)
      (.of_parts (stage := stage))
  unfold State.scanEnds
  dsimp only
  split
  · exact booted.trans (State.runStage_formKept _ stage)
  · exact booted

/-! ## Requests (R147 to R151) -/

/-- What every step keeps: the capture queue's, the replies' and the store's forms. -/
structure State.QueuesKept (s t : State) : Prop where
  captures : s.captures.ok → t.captures.ok
  replies : s.repliesOk → t.repliesOk
  store : s.storeOk → t.storeOk

theorem State.QueuesKept.trans {s t u : State} (h : s.QueuesKept t) (h' : t.QueuesKept u) : s.QueuesKept u :=
  ⟨h'.captures ∘ h.captures, h'.replies ∘ h.replies, h'.store ∘ h.store⟩

theorem State.FormKept.queues {s t : State} (h : s.FormKept t) : s.QueuesKept t :=
  ⟨h.captures, fun ⟨room, ok⟩ => ⟨h.outbox.length_le.trans room, cacheOk.of_sublist ok h.cache⟩, h.store⟩

/-- A reply sent from an outbox with room keeps the queues. -/
theorem State.send_queuesKept {s : State} (room : s.link.outbox.length < 2) (r : Reply) (first : Bool) :
    s.QueuesKept (s.send r first) where
  captures := by simp
  replies ok := ⟨(s.send_outbox r first).trans room, by simpa using ok.2⟩
  store ok := ok.of_same (by simp) (by simp) (by simp)

/-- The answer of a request whose tag has no entry in the cache is stored and sent (R150, R151). -/
theorem Answer.reply_queuesKept {s : State} {x : Answer} {code : Nat} {q : Req} (room : s.link.outbox.length < 2)
    (kept : (s.uncache code q).FormKept x.state) : s.QueuesKept (x.reply code q) := by
  let r := replyTo code q x.status x.payload
  have uncached : s.FormKept (s.uncache code q) := by
    unfold State.uncache
    split
    · exact .refl s
    · exact ⟨id, fun ok => ok.of_same rfl rfl rfl, .refl _, List.filter_sublist⟩
  have owned := uncached.trans kept
  have room' : (x.state.cacheReply code q r).link.outbox.length < 2 := by
    simpa using owned.outbox.length_le.trans_lt room
  have cached : s.QueuesKept (x.state.cacheReply code q r) := by
    refine ⟨by simpa using owned.captures, fun ok => ?_, fun ok => (owned.store ok).of_same (by simp) (by simp) (by simp)⟩
    have form := cacheOk.of_sublist ok.2 owned.cache
    refine ⟨room'.le, ?_⟩
    unfold State.cacheReply
    split
    · exact form
    · rename_i stored
      refine cacheWith_ok form (fun e mem => ?_) (not_or.mp stored).2
      have mem' := kept.cache.subset mem
      rw [State.uncache, if_neg stored] at mem'
      exact of_decide_eq_true (List.mem_filter.mp mem').2
  exact cached.trans (State.send_queuesKept room' r _)

/-- The examination keeps what the owner keeps, who is asked behind a completed start-up, but for HELLO and STATUS (R148). -/
theorem State.examine_queuesKept {s : State} {code : Nat} {q : Req} {execute : State → Answer}
    (room : s.link.outbox.length < 2)
    (owns : ∀ u : State, u.startup.stage = .complete ∨ alwaysTaken code = true → u.FormKept (execute u).state) :
    s.QueuesKept (s.examine code q execute) := by
  unfold State.examine
  split
  · exact State.send_queuesKept room _ _
  · rename_i gate
    split
    · exact State.send_queuesKept room _ _
    · split
      · exact State.send_queuesKept room _ _
      · refine Answer.reply_queuesKept room (owns _ ?_)
        have stage : (s.uncache code q).startup = s.startup := by simp
        rw [stage]
        by_contra h
        exact gate (by simpa using h)

theorem State.takeRequest_queuesKept {s : State} {code : Nat} {q : Req} {execute : State → Answer}
    (owns : ∀ u : State, u.startup.stage = .complete ∨ alwaysTaken code = true → u.FormKept (execute u).state) :
    s.QueuesKept (s.takeRequest code q fun t => t.examine code q execute) := by
  unfold State.takeRequest
  split
  · split
    · split
      · rename_i takes
        have room : s.cleared.link.outbox.length < 2 := by
          simp only [State.canTake, Bool.and_eq_true, decide_eq_true_eq] at takes
          exact takes.2
        have cleared : s.FormKept s.cleared := .of_parts rfl rfl rfl rfl rfl
        exact cleared.queues.trans (State.examine_queuesKept room owns)
      · exact State.FormKept.queues (.of_parts rfl rfl rfl rfl rfl)
    · exact (s.offer_formKept _).queues
  · exact (State.FormKept.refl s).queues

/-- A request keeps the queues if its owner, asked behind a completed start-up but for HELLO and STATUS, keeps the forms. -/
theorem requestStep_queuesKept {π : Type} {code : Nat} {read : List Byte → Option π} {owner : π → State → Answer}
    {q : Req} {s t : State} (h : requestStep code read owner q s = .next t)
    (owns : ∀ (p : π) (u : State), u.startup.stage = .complete ∨ alwaysTaken code = true →
      u.FormKept (owner p u).state) : s.QueuesKept t := by
  cases h
  refine State.takeRequest_queuesKept fun u asked => ?_
  unfold executeWith
  split
  · exact .refl u
  · exact owns _ u asked

/-! ## The owners of requests -/

theorem runOwner_formKept (count : Nat) (s : State) : s.FormKept (runOwner count s).state := by
  unfold runOwner
  (repeat' split) <;> exact .of_parts

theorem finishOwner_formKept (p : Unit) (s : State) : s.FormKept (finishOwner p s).state := by
  unfold finishOwner
  split
  · exact .of_parts rfl rfl rfl rfl rfl
  all_goals exact .of_parts

theorem haltOwner_formKept (p : Unit) (s : State) : s.FormKept (haltOwner p s).state := by
  unfold haltOwner
  split <;> exact .of_parts

theorem State.stage_formKept (s : State) (p : Plan) : s.FormKept (okay (s.stage p)).state := .of_parts rfl rfl rfl rfl rfl

theorem edit_formKept {s : State} {bad : Option Nat} {rest : Answer} (h : s.FormKept rest.state) :
    s.FormKept (edit s bad rest).state := by
  unfold edit
  split
  · exact .refl s
  · split
    · exact .refl s
    · exact h

theorem planSetCycleOwner_formKept (c : SetCycle) (s : State) : s.FormKept (planSetCycleOwner c s).state :=
  edit_formKept (s.stage_formKept _)

theorem planSetChannelOwner_formKept (c : SetPair) (s : State) : s.FormKept (planSetChannelOwner c s).state := by
  refine edit_formKept ?_
  split
  · exact s.stage_formKept _
  · exact .refl s

theorem planSetInputOwner_formKept (c : SetPair) (s : State) : s.FormKept (planSetInputOwner c s).state := by
  refine edit_formKept ?_
  split
  · exact s.stage_formKept _
  · exact .refl s

theorem entryAddOwner_formKept (raw : RawEntry) (s : State) : s.FormKept (entryAddOwner raw s).state := by
  unfold entryAddOwner
  (repeat' split) <;> exact .of_parts

theorem windowAddOwner_formKept (raw : RawWindow) (s : State) : s.FormKept (windowAddOwner raw s).state := by
  unfold windowAddOwner
  (repeat' split) <;> exact .of_parts

theorem entryRemoveOwner_formKept (id : Nat) (s : State) : s.FormKept (entryRemoveOwner id s).state := by
  refine edit_formKept ?_
  split
  · exact s.stage_formKept _
  · exact .refl s

theorem windowRemoveOwner_formKept (id : Nat) (s : State) : s.FormKept (windowRemoveOwner id s).state := by
  refine edit_formKept ?_
  split
  · exact s.stage_formKept _
  · exact .refl s

theorem State.commit_formKept (s : State) : s.FormKept s.commit.state := by
  unfold State.commit
  dsimp only
  split <;> exact .of_parts rfl rfl rfl rfl rfl

theorem planCommitOwner_formKept (p : Unit) (s : State) : s.FormKept (planCommitOwner p s).state := by
  have cleared : s.FormKept (s.setOutcome .none) := .of_parts
  unfold planCommitOwner
  split
  · exact .refl s
  · split
    · exact cleared
    · exact cleared.trans (State.commit_formKept _)

theorem planAbandonOwner_formKept (p : Unit) (s : State) : s.FormKept (planAbandonOwner p s).state := by
  unfold planAbandonOwner
  split
  · exact .of_parts rfl rfl rfl rfl rfl
  all_goals exact .refl s

theorem heldIdle_formKept {s taken : State} (i : Fin 8) (h : s.FormKept taken) :
    s.FormKept (heldIdle s i taken).state := by
  unfold heldIdle
  split
  · exact .refl s
  · split
    · exact .refl s
    · split
      · exact .refl s
      · exact h

theorem channelHoldOwner_formKept (c : Nat) (s : State) : s.FormKept (channelHoldOwner c s).state := by
  unfold channelHoldOwner
  (repeat' split) <;> exact .of_parts

theorem channelSetOwner_formKept (f : Nat × Nat) (s : State) : s.FormKept (channelSetOwner f s).state := by
  unfold channelSetOwner
  split
  · exact .refl s
  · exact .refl s
  · exact heldIdle_formKept _ .of_parts

theorem channelPulseOwner_formKept (f : Nat × Nat) (s : State) : s.FormKept (channelPulseOwner f s).state := by
  unfold channelPulseOwner
  split
  · exact .refl s
  · split
    · exact .refl s
    · exact heldIdle_formKept _ .of_parts

theorem channelReleaseOwner_formKept (c : Nat) (s : State) : s.FormKept (channelReleaseOwner c s).state := by
  unfold channelReleaseOwner
  split <;> exact .of_parts

/-- CAPTURE_READ removes the oldest records (R87). -/
theorem captureReadOwner_formKept (n : Nat) (s : State) : s.FormKept (captureReadOwner n s).state := by
  unfold captureReadOwner
  split
  · exact .of_captures fun ok => Captures.removed_ok ok n
  · exact .refl s

theorem captureFlushOwner_formKept (p : Unit) (s : State) : s.FormKept (captureFlushOwner p s).state :=
  .of_captures Captures.flushed_ok rfl rfl rfl rfl

/-- CAPTURE_WATERMARK checks its range before it sets the watermark (R86). -/
theorem captureWatermarkOwner_formKept (n : Nat) (s : State) : s.FormKept (captureWatermarkOwner n s).state := by
  unfold captureWatermarkOwner
  split
  · rename_i range
    exact .of_captures fun ok => State.watermarked_captures ok range.1 range.2
  · exact .refl s

/-- COUNTERS_CLEAR touches no more of the Capture Queue than its counters (R158). -/
theorem countersClearOwner_formKept (n : Nat) (s : State) : s.FormKept (countersClearOwner n s).state := by
  unfold countersClearOwner
  split
  · exact .refl s
  · rename_i g _
    cases g with
    | inputs => exact .of_captures id rfl rfl rfl rfl
    | _ => exact .of_parts rfl rfl rfl rfl rfl

/-- A HELLO empties the reply cache (R153). -/
theorem helloOwner_formKept (h : Hello) (s : State) : s.FormKept (helloOwner h s).state := by
  unfold helloOwner
  split
  · exact .refl s
  · split
    · exact .refl s
    · exact ⟨id, fun ok => ok.of_same rfl rfl rfl, .refl _, List.nil_sublist _⟩

theorem restartOwner_formKept (p : Unit) (s : State) : s.FormKept (restartOwner p s).state := by
  unfold restartOwner
  split
  · exact .refl s
  · exact .of_parts rfl rfl rfl rfl rfl

theorem report_formKept {x : Answer} {s : State} (h : x.state = s) : s.FormKept x.state := h ▸ .refl s

/-! ## The owners of the store's requests: behind a completed start-up the store is STARTING no more (R104, R132) -/

theorem State.storeOk.complete {s : State} (ok : s.storeOk) (complete : s.startup.stage = .complete) :
    s.store.status ≠ .starting := fun starting => (ok.2.mp starting).2 complete

theorem State.beginOp_formKept {s : State} (complete : s.startup.stage = .complete) (op : StoreOp)
    (steps : List MediaStep) (worn : Bool) : s.FormKept (s.beginOp op steps worn) :=
  .of_store fun ok => State.beginOp_storeOk ok (ok.complete complete) op steps worn

theorem State.endOp_formKept {s : State} (complete : s.startup.stage = .complete) (op : StoreOp) (result : StoreResult)
    (compacted worn : Bool) : s.FormKept (s.endOp op result compacted worn) :=
  .of_store fun ok => State.endOp_storeOk ok (ok.complete complete) op result compacted worn

theorem State.writeRecord_formKept {s : State} (complete : s.startup.stage = .complete) (op : StoreOp) (size : Nat)
    (steps : Directory → Bank → List MediaStep) : s.FormKept (accepted (s.writeRecord op size steps)).state := by
  rw [accepted_state]
  unfold State.writeRecord
  split
  · exact State.beginOp_formKept complete _ _ _
  · split
    · exact State.endOp_formKept complete _ _ _ _
    · exact State.beginOp_formKept complete _ _ _

theorem writing_formKept {s : State} {bad : Option Nat} {rest : Answer} (h : s.FormKept rest.state) :
    s.FormKept (writing s bad rest).state := by
  unfold writing
  split
  · exact .refl s
  · split
    · exact .refl s
    · split
      · exact .refl s
      · exact h

theorem profileSaveOwner_formKept {s : State} (complete : s.startup.stage = .complete) (f : Nat × List Byte) :
    s.FormKept (profileSaveOwner f s).state := by
  refine writing_formKept ?_
  split
  · exact State.writeRecord_formKept complete _ _ _
  · exact .refl s

theorem profileDeleteOwner_formKept {s : State} (complete : s.startup.stage = .complete) (n : Nat) :
    s.FormKept (profileDeleteOwner n s).state := by
  unfold profileDeleteOwner
  split
  · exact .refl s
  · refine writing_formKept ?_
    split
    · exact State.beginOp_formKept complete _ _ _
    · exact .refl s

theorem bootSetOwner_formKept {s : State} (complete : s.startup.stage = .complete) (f : Nat × Nat) :
    s.FormKept (bootSetOwner f s).state := by
  unfold bootSetOwner
  split
  · exact .refl s
  · refine writing_formKept ?_
    split
    · exact State.writeRecord_formKept complete _ _ _
    · split
      · exact State.writeRecord_formKept complete _ _ _
      · exact .refl s

theorem storeFormatOwner_formKept {s : State} (complete : s.startup.stage = .complete) (p : Unit) :
    s.FormKept (storeFormatOwner p s).state := by
  have counted : s.FormKept s.readCounts := .of_store fun ok => ok.of_same rfl rfl rfl
  have emptied : s.readCounts.FormKept s.readCounts.emptyDirectory := .of_store fun ok => ok.of_same rfl rfl rfl
  unfold storeFormatOwner
  split
  · exact .refl s
  · split
    · exact counted.trans (State.endOp_formKept (s := s.readCounts) complete _ _ _ _)
    · exact counted.trans (emptied.trans (State.beginOp_formKept (s := s.readCounts.emptyDirectory) complete _ _ _))

theorem profileLoadOwner_formKept (n : Nat) (s : State) : s.FormKept (profileLoadOwner n s).state := by
  have loads (e : DirEntry) : s.FormKept (s.loadEntry e).state := by
    unfold State.loadEntry
    split
    · exact .of_parts rfl rfl rfl rfl rfl
    · exact .refl s
  unfold profileLoadOwner
  split
  · exact .refl s
  · split
    · exact .refl s
    · split
      · exact .refl s
      · split
        · exact .refl s
        · exact loads _

/-! ## Commands -/

/-- A happening that takes effect only when it is due keeps the forms if its effect keeps them. -/
theorem formKept_of_due {s effect t : State} {due : Bool}
    (h : (.next (if due then effect else s) : Host.Outcome State Fault Refusal) = .next t)
    (kept : s.FormKept effect) : s.FormKept t := by
  cases h
  split
  · exact kept
  · exact .refl s

theorem execProgramStepEnd_formKept {faults : List Host.Cell} {s t : State} (h : execProgramStepEnd faults s = .next t) :
    s.FormKept t := by
  unfold execProgramStepEnd at h
  split at h
  · cases h; exact .refl s
  · split at h
    · cases h; exact .refl s
    · rename_i job under
      split at h
      · cases h; exact .refl s
      · split at h
        · cases h; exact .refl s
        · split at h <;> cases h
          exact State.FormKept.arbitrated (.of_store fun ok => State.programEnds_storeOk ok under _ _ _ _ _ _)

theorem execEraseEnd_formKept {faults : List Host.Cell} {s t : State} (h : execEraseEnd faults s = .next t) :
    s.FormKept t := by
  cases h
  split
  · split
    · exact .refl s
    · rename_i job under
      split
      · exact .refl s
      · split
        · exact State.FormKept.arbitrated (.of_store fun ok => State.eraseEnds_storeOk ok under _ _ _ _)
        · exact .refl s
  · exact .refl s

theorem execTransmitFrameEnd_formKept {s t : State} (h : execTransmitFrameEnd s = .next t) : s.FormKept t := by
  unfold execTransmitFrameEnd at h
  cases h
  split
  · split
    · have idle (u : State) : u.FormKept u.txIdle := .of_parts rfl rfl rfl rfl rfl
      exact ((s.frameLeft_formKept _).trans (idle _)).arbitrated
    · exact .refl s
  · exact .refl s

theorem execTimelineEdge_formKept {s t : State} (h : execTimelineEdge s = .next t) : s.FormKept t := by
  cases h
  split
  · split
    · exact .of_parts
    · exact .refl s
  · exact .refl s

theorem execStoreScanEnd_formKept {s t : State} (h : execStoreScanEnd s = .next t) : s.FormKept t := by
  cases h
  split
  · exact s.scanEnds_formKept _ _
  · exact .refl s

theorem execRawLineChange_formKept {line : Line} {level : Wire} {s t : State}
    (h : execRawLineChange line level s = .next t) : s.FormKept t := by
  cases h
  cases line <;> exact .of_parts rfl rfl rfl rfl rfl

theorem State.takeAck_formKept (s : State) (number : W16) : s.FormKept (s.takeAck number) := by
  have acknowledged (u : State) : u.FormKept (u.acknowledge number.toNat) := by
    unfold State.acknowledge
    split
    · exact .of_parts rfl rfl rfl rfl rfl
    · exact u.countLink_formKept _
  unfold State.takeAck
  split
  · split
    · exact acknowledged s
    · split
      · exact State.FormKept.trans (t := s.cleared) (.of_parts rfl rfl rfl rfl rfl) (acknowledged _)
      · exact s.offer_formKept _
  · exact .refl s

/-- Every command keeps the queues and the store in form. -/
theorem exec_queuesKept {c : Instr} {s t : State} (h : exec c s = .next t) : s.QueuesKept t := by
  cases c
  case run q => exact requestStep_queuesKept h fun p u _ => runOwner_formKept p u
  case finish q => exact requestStep_queuesKept h fun p u _ => finishOwner_formKept p u
  case halt q => exact requestStep_queuesKept h fun p u _ => haltOwner_formKept p u
  case planSetCycle q => exact requestStep_queuesKept h fun p u _ => planSetCycleOwner_formKept p u
  case planSetChannel q => exact requestStep_queuesKept h fun p u _ => planSetChannelOwner_formKept p u
  case planSetInput q => exact requestStep_queuesKept h fun p u _ => planSetInputOwner_formKept p u
  case entryAdd q => exact requestStep_queuesKept h fun p u _ => entryAddOwner_formKept p u
  case entryRemove q => exact requestStep_queuesKept h fun p u _ => entryRemoveOwner_formKept p u
  case windowAdd q => exact requestStep_queuesKept h fun p u _ => windowAddOwner_formKept p u
  case windowRemove q => exact requestStep_queuesKept h fun p u _ => windowRemoveOwner_formKept p u
  case planClear q => exact requestStep_queuesKept h fun _ u _ => edit_formKept (u.stage_formKept _)
  case planCopyActive q => exact requestStep_queuesKept h fun _ u _ => edit_formKept (u.stage_formKept _)
  case planRead q => exact requestStep_queuesKept h fun p u _ => report_formKept (planReadOwner_state p u)
  case entryList q => exact requestStep_queuesKept h fun p u _ => report_formKept (entryListOwner_state p u)
  case windowList q => exact requestStep_queuesKept h fun p u _ => report_formKept (windowListOwner_state p u)
  case planCheck q => exact requestStep_queuesKept h fun p u _ => report_formKept (planCheckOwner_state p u)
  case planCommit q => exact requestStep_queuesKept h fun p u _ => planCommitOwner_formKept p u
  case planAbandon q => exact requestStep_queuesKept h fun p u _ => planAbandonOwner_formKept p u
  case channelHold q => exact requestStep_queuesKept h fun p u _ => channelHoldOwner_formKept p u
  case channelSet q => exact requestStep_queuesKept h fun p u _ => channelSetOwner_formKept p u
  case channelPulse q => exact requestStep_queuesKept h fun p u _ => channelPulseOwner_formKept p u
  case channelRelease q => exact requestStep_queuesKept h fun p u _ => channelReleaseOwner_formKept p u
  case captureRead q => exact requestStep_queuesKept h fun p u _ => captureReadOwner_formKept p u
  case captureFlush q => exact requestStep_queuesKept h fun p u _ => captureFlushOwner_formKept p u
  case captureWatermark q => exact requestStep_queuesKept h fun p u _ => captureWatermarkOwner_formKept p u
  case profileSave q =>
    exact requestStep_queuesKept h fun p u ok => profileSaveOwner_formKept (ok.resolve_right (by decide)) p
  case profileDelete q =>
    exact requestStep_queuesKept h fun p u ok => profileDeleteOwner_formKept (ok.resolve_right (by decide)) p
  case bootSet q => exact requestStep_queuesKept h fun p u ok => bootSetOwner_formKept (ok.resolve_right (by decide)) p
  case storeFormat q =>
    exact requestStep_queuesKept h fun p u ok => storeFormatOwner_formKept (ok.resolve_right (by decide)) p
  case profileLoad q => exact requestStep_queuesKept h fun p u _ => profileLoadOwner_formKept p u
  case profileList q => exact requestStep_queuesKept h fun _ _ _ => report_formKept rfl
  case storeStatus q => exact requestStep_queuesKept h fun _ _ _ => report_formKept rfl
  case restart q => exact requestStep_queuesKept h fun p u _ => restartOwner_formKept p u
  case hello q => exact requestStep_queuesKept h fun p u _ => helloOwner_formKept p u
  case goodbye q => exact requestStep_queuesKept h fun _ _ _ => .of_parts rfl rfl rfl rfl rfl
  case status q => exact requestStep_queuesKept h fun _ _ _ => report_formKept rfl
  case countersRead q => exact requestStep_queuesKept h fun p u _ => report_formKept (countersReadOwner_state p u)
  case countersClear q => exact requestStep_queuesKept h fun p u _ => countersClearOwner_formKept p u
  case ack number => cases h; exact (s.takeAck_formKept number).queues
  case frameReceived bytes => exact (formKept_of_due h (s.frameArrives_formKept bytes)).queues
  case gapTimerExpiry => exact (formKept_of_due h s.gapExpired_formKept).queues
  case transmitFrameEnd => exact (execTransmitFrameEnd_formKept h).queues
  case lapse => exact (formKept_of_due h s.lapses_formKept.arbitrated).queues
  case resendTimerExpiry number =>
    exact (formKept_of_due h (State.FormKept.arbitrated (.of_parts rfl rfl rfl rfl rfl))).queues
  case inputEdge i d => exact (formKept_of_due h (s.inputEdges_formKept i d).arbitrated).queues
  case stopAsserted => exact (formKept_of_due h (State.FormKept.arbitrated (t := s.stops) .of_parts)).queues
  case stopReleased => exact (formKept_of_due h (.of_parts rfl rfl rfl rfl rfl)).queues
  case timelineEdge => exact (execTimelineEdge_formKept h).queues
  case endOfCycle => exact (formKept_of_due h (State.FormKept.arbitrated (t := s.endCycle) .of_parts)).queues
  case windowOpen id => exact (formKept_of_due h (.of_parts rfl rfl rfl rfl rfl)).queues
  case windowClose =>
    exact (formKept_of_due h (State.FormKept.arbitrated (t := s.closeAndReport s.seq.phase) .of_parts)).queues
  case waitTimerExpiry => exact (formKept_of_due h (State.FormKept.arbitrated (t := s.starves) .of_parts)).queues
  case manualPulseExpiry c => exact (formKept_of_due h (.of_parts rfl rfl rfl rfl rfl)).queues
  case programStepEnd faults => exact (execProgramStepEnd_formKept h).queues
  case eraseEnd faults => exact (execEraseEnd_formKept h).queues
  case storeScanEnd => exact (execStoreScanEnd_formKept h).queues
  case powerUp torn => cases h; exact (s.resetBy_formKept _ _ _).queues
  case resetLine torn => exact (formKept_of_due h (s.resetBy_formKept _ _ _)).queues
  case resetEnd rate1 rate0 =>
    cases h
    split
    · exact State.FormKept.queues (.of_store (fun _ => s.begins_storeOk rate1 rate0) rfl rfl rfl)
    · exact (State.FormKept.refl s).queues
  case characterReceived byte lineError => exact (formKept_of_due h (s.characterArrives_formKept byte lineError)).queues
  case rawLineChange line level => exact (execRawLineChange_formKept h).queues
  case powerLoss torn => exact (formKept_of_due h (s.resetBy_formKept _ _ _)).queues

/-! ## Steps -/

theorem State.takeFrame_queuesKept {s t : State} {f : Frame} (h : s.takeFrame f = .next t) : s.QueuesKept t := by
  unfold State.takeFrame at h
  split at h
  · split at h
    · exact exec_queuesKept h
    · split at h
      · exact exec_queuesKept h
      · cases h
        exact State.takeRequest_queuesKept fun u _ => .refl u
  · cases h
    exact State.FormKept.queues (.of_parts rfl rfl rfl rfl rfl)

/-- A happening that is due in one state is taken in another that shows the same stage. -/
theorem State.takeDue_queuesKept {s u t : State} {d : Due} (due : d ∈ s.dueAll)
    (stage : u.startup.stage = s.startup.stage) (h : u.takeDue d = .next t) : u.QueuesKept t := by
  cases d with
  | command c => exact exec_queuesKept h
  | takeFrame f => exact State.takeFrame_queuesKept h
  | runStage =>
    cases h
    exact (u.runStage_formKept (stage.trans (State.dueAll_runStage due))).queues

theorem State.idle_queuesKept {s t : State} (h : s.idle = .next t) : s.QueuesKept t := by
  cases live : s.live with
  | false =>
    rw [State.idle, live] at h
    cases h
    exact (State.FormKept.refl s).queues
  | true =>
    match due : s.dueAll with
    | [] =>
      rw [State.idle, if_pos live, due] at h
      cases h
      exact State.FormKept.queues (.of_parts rfl rfl rfl rfl rfl)
    | [d] =>
      rw [State.idle, if_pos live, due] at h
      exact State.takeDue_queuesKept (by simp [due]) rfl h
    | d :: e :: rest =>
      obtain ⟨x, mem, choice⟩ := State.idle_choice live due
      rw [choice] at h
      have chosen : s.FormKept { s with choices := s.choices + 1 } := .of_parts rfl rfl rfl rfl rfl
      exact chosen.queues.trans (State.takeDue_queuesKept mem rfl h)

theorem step_queuesKept {s t : State} (h : step s = .next t) : s.QueuesKept t := by
  unfold step at h
  split at h
  · exact State.idle_queuesKept h
  · rename_i rest _
    have dequeued : s.FormKept { s with pending := rest } := .of_parts rfl rfl rfl rfl rfl
    exact dequeued.queues.trans (exec_queuesKept h)

/-- Settles O58: every command, every happening that is due and every tick keeps the three forms. -/
theorem everyStepKeepsTheQueuesAndTheStore : Obligations.EveryStepKeepsTheQueuesAndTheStore :=
  ⟨fun _ _ ok h => (step_queuesKept h).captures ok, fun _ _ ok h => (step_queuesKept h).replies ok,
    fun _ _ ok h => (step_queuesKept h).store ok⟩

end Sys2Proof.Machine
end

section
/-! The Capture Queue's requests, the record of an input edge, and the filters (chapter 4). -/

-- The text is long enough that elaborating its proofs in threads of their own would exceed the memory limit.
set_option Elab.async false

namespace Sys2Proof.Machine

/-! ## CAPTURE_READ, CAPTURE_FLUSH and CAPTURE_WATERMARK (R86 to R88) -/

/-- A state with another capture queue and other notices. -/
def State.withCaptures (s : State) (c : Captures) (n : Notices) : State := { s with captures := c, notices := n }

/-- A request whose owner changes the Capture Queue, and raises what it tells. -/
theorem requestStep_withCaptures {π : Type} {code : Nat} {read : List Byte → Option π} {owner : π → State → Answer}
    {q : Req} {s : State} {p : π} {c : Instr} {queue : Captures} {told : Notices} {payload : List Byte}
    (hc : exec c s = requestStep code read owner q s) (h : s.ready code q) (hp : read q.params = some p)
    (answer : owner p (s.taken code q) = ⟨(s.taken code q).withCaptures queue told, .ok, payload, false⟩) :
    Answers c s code q (s.withCaptures queue told) .ok payload := by
  have agrees : ((s.taken code q).withCaptures queue told).agrees (s.withCaptures queue told) := by
    unfold State.taken State.uncache
    split <;> rfl
  exact requestStep_answers hc h hp (by rwa [answer]) (by rw [answer]) (by rw [answer])
    (by rw [answer]; simp [State.withCaptures])

theorem captureReadOwner_inRange {n : Nat} (low : 1 ≤ n) (high : n ≤ 12) (s : State) :
    captureReadOwner n s =
      ⟨s.withCaptures (s.captures.removed n) s.notices, .ok,
        captureReadPayload (s.captures.records.take n) (s.captures.records.drop n).length, false⟩ :=
  if_pos ⟨low, high⟩

theorem captureReadOwner_out {n : Nat} (out : n = 0 ∨ 12 < n) (s : State) :
    captureReadOwner n s = refuse s (.badValue 1) := if_neg (by omega)

/-- A byte is 0 as a number too. -/
theorem Byte.toNat_out {b : Byte} {n : Nat} (out : b = 0 ∨ n < b.toNat) : b.toNat = 0 ∨ n < b.toNat :=
  out.imp_left (congrArg BitVec.toNat)

/-- Settles O18: a maximum in range, one out of range, and the queue emptied. -/
theorem captureReadAndFlushRemoveRecords : Obligations.CaptureReadAndFlushRemoveRecords := by
  refine ⟨fun s q m ready params => ⟨fun low high => ?_, fun out => ?_⟩, fun s q ready params => ?_⟩
  · have answers := requestStep_withCaptures (c := .captureRead q) (owner := captureReadOwner) rfl ready
      (readOne_singleton params) (captureReadOwner_inRange low high _)
    simpa [State.withCaptures, Captures.removed, Captures.rearm, captureReadPayload] using answers
  · exact requestStep_refused rfl ready (readOne_singleton params) (captureReadOwner_out (Byte.toNat_out out) _)
  · have answers := requestStep_withCaptures (c := .captureFlush q) (queue := s.captures.flushed) (told := s.notices)
      (payload := be1 s.captures.records.length) (owner := captureFlushOwner) rfl ready (readNothing_nil params)
      (by simp [captureFlushOwner, State.withCaptures])
    exact answers

theorem captureWatermarkOwner_out {n : Nat} (out : n = 0 ∨ 128 < n) (s : State) :
    captureWatermarkOwner n s = refuse s (.badValue 1) := if_neg (by omega)

/-- A watermark above the level is armed and tells nothing (R86). -/
theorem captureWatermarkOwner_above {n : Nat} {s : State} (low : 1 ≤ n) (high : n ≤ 128)
    (above : s.captures.records.length < n) :
    captureWatermarkOwner n s =
      ⟨s.withCaptures { s.captures with watermark := n, armed := true } s.notices, .ok,
        be1 s.captures.records.length, false⟩ := by
  rw [captureWatermarkOwner, if_pos ⟨low, high⟩, State.watermarked, if_neg (Nat.not_le.mpr above), decide_eq_true above]
  rfl

/-- A watermark that the level has reached is unarmed, and tells so at once (R86). -/
theorem captureWatermarkOwner_reached {n : Nat} {s : State} (low : 1 ≤ n) (high : n ≤ 128)
    (reached : n ≤ s.captures.records.length) :
    captureWatermarkOwner n s =
      ⟨s.withCaptures { s.captures with watermark := n, armed := false }
          (s.notices.raise (.merging .captureLevel s.seq.cycle)), .ok, be1 s.captures.records.length, false⟩ := by
  rw [captureWatermarkOwner, if_pos ⟨low, high⟩, State.watermarked, if_pos reached,
    decide_eq_false (Nat.not_lt.mpr reached)]
  rfl

/-- Settles O19: a watermark above the level, one that the level has reached, and one out of range. -/
theorem captureWatermarkIsEvaluatedAtOnce : Obligations.CaptureWatermarkIsEvaluatedAtOnce := by
  intro s q m ready params
  have read := readOne_singleton params
  have level : (s.taken 25 q).captures.records.length = s.captures.records.length := by simp
  refine ⟨fun low high above => ?_, fun low high reached => ?_, fun out => ?_⟩
  · have answers := requestStep_withCaptures (c := .captureWatermark q) rfl ready read
      (captureWatermarkOwner_above low high (level ▸ above))
    simpa [State.withCaptures] using answers
  · have answers := requestStep_withCaptures (c := .captureWatermark q) rfl ready read
      (captureWatermarkOwner_reached low high (level ▸ reached))
    simpa [State.withCaptures] using answers
  · exact requestStep_refused rfl ready read (captureWatermarkOwner_out (Byte.toNat_out out) _)

/-! ## The filters (R74, R75) -/

theorem Filter.slope_rise {f : Filter} (h : f.slope = .rise) : f.level = .low := by
  unfold Filter.slope at h
  split at h
  · assumption
  · cases h

theorem Filter.slope_fall {f : Filter} (h : f.slope = .fall) : f.level = .high := by
  unfold Filter.slope at h
  split at h
  · cases h
  · assumption

/-- An input's edge is due in the direction of its filter, while no end of a cycle is (R74, R77). -/
theorem State.inputDue_iff (s : State) (i : Fin 4) (d : Slope) :
    s.inputDue i d = true ↔
      (s.filters.inputs.get i).due = true ∧ (s.filters.inputs.get i).slope = d ∧ s.cycleEndDue = false := by
  simp [State.inputDue, and_assoc]

theorem State.stopDue_iff (s : State) (d : Slope) :
    s.stopDue d = true ↔ s.filters.stop.due = true ∧ s.filters.stop.slope = d := by
  simp [State.stopDue]

/-- An edge that is due is due in one of the two directions. -/
theorem Filter.due_rise_or_fall (f : Filter) :
    f.due = true ∧ f.slope = .rise ∨ f.due = true ∧ f.slope = .fall ↔ ∃ age, f.cand = some age ∧ f.depth ≤ age := by
  have direction : f.slope = .rise ∨ f.slope = .fall := by cases f.slope <;> simp
  rw [← and_or_left, Filter.due_iff]
  exact and_iff_left direction

theorem exec_rawLineChange (line : Line) (level : Wire) (s : State) :
    exec (.rawLineChange line level) s = execRawLineChange line level s := rfl

/-- Where the filters sample, a change of an input's line is the present tick's sample (R74). -/
theorem execRawLineChange_input {s : State} (sampling : s.sampling = true) (i : Fin 4) (level : Wire) :
    execRawLineChange (.input i) level s = .next (s.onInput i fun f => f.sample level) := by
  rw [execRawLineChange, sampling]
  rfl

theorem execRawLineChange_stop {s : State} (sampling : s.sampling = true) (level : Wire) :
    execRawLineChange .stop level s =
      .next { s with filters := { s.filters with stop := s.filters.stop.sample level } } := by
  rw [execRawLineChange, sampling]
  rfl

/-- Of two changes of a line in one tick the second makes the first as if it had not been (entry 40). -/
theorem execRawLineChange_twice {line : Line} {first : Wire} {s t : State} (h : execRawLineChange line first s = .next t)
    (last : Wire) : execRawLineChange line last t = execRawLineChange line last s := by
  cases h
  refine congrArg Host.Outcome.next ?_
  cases line with
  | input i =>
    have again : State.onInput (s.onInput i (Filter.rawChange s.sampling first)) i (Filter.rawChange s.sampling last) =
        s.onInput i (Filter.rawChange s.sampling last) := by
      simp only [State.onInput, Row.modify, Row.get_set_self, Row.set_set, Filter.rawChange_rawChange]
    exact again
  | stop =>
    have again := Filter.rawChange_rawChange s.filters.stop s.sampling first last
    exact congrArg (fun f => { s with filters := { s.filters with stop := f } }) again

/-- Behind the tick's edge a change only stands at the pin (R74; entry 40). -/
theorem Filter.sample_taken {f : Filter} (taken : f.taken = true) (level : Wire) :
    f.sample level = { f with raw := level } := by
  rw [Filter.sample, taken]
  rfl

/-- Settles O40, clause by clause from what a sample, a tick and a due edge are. -/
theorem filtersAgeACandidate : Obligations.FiltersAgeACandidate := by
  intro s i f g compared
  have samples (live : s.live = true) (settle : 1 ≤ s.filters.settle) : s.sampling = true := by
    simp [State.sampling, live, settle]
  refine ⟨fun level live settle => ⟨execRawLineChange_input (samples live settle) i level,
      execRawLineChange_stop (samples live settle) level⟩,
    fun line first last t h => execRawLineChange_twice h last, fun level t taken dropped live settle h => ?_,
    Row.get_mapIdx _ _ i, fun goesOn => ?_, fun ends => ?_, fun due => ?_, fun due => ?_, rfl, ?_, fun due => ?_,
    fun due => ?_⟩
  · rw [exec_rawLineChange, execRawLineChange_input (samples live settle)] at h
    cases h
    have stands : (s.onInput i fun f => f.sample level).filters.inputs.get i = { f with raw := level } :=
      (Row.get_modify_self _ _ _).trans (Filter.sample_taken taken level)
    refine ⟨fun d => ?_, ?_⟩
    · simp [State.inputDue, stands, Filter.due, dropped]
    · have ticked : ((s.onInput i fun f => f.sample level).tick.filters.inputs.get i) = _ := Row.get_mapIdx _ _ i
      rw [ticked, stands]
      exact congrArg (f.compare level) dropped
  · simpa only [State.inputDue_iff, goesOn, and_true] using f.due_rise_or_fall
  · simp [State.inputDue, ends]
  · exact Filter.slope_rise ((s.inputDue_iff i .rise).mp due).2.1
  · exact Filter.slope_fall ((s.inputDue_iff i .fall).mp due).2.1
  · simpa only [State.stopDue_iff] using g.due_rise_or_fall
  · exact Filter.slope_rise ((s.stopDue_iff .rise).mp due).2
  · exact Filter.slope_fall ((s.stopDue_iff .fall).mp due).2

end Sys2Proof.Machine
end

section
/-! The record that an input edge becomes (R77 to R80, R82 to R85), by the Cycle Controller's decision and in either order of
the two blocks before the Capture Queue (R95). -/

-- The text is long enough that elaborating its proofs in threads of their own would exceed the memory limit.
set_option Elab.async false

namespace Sys2Proof.Machine

/-! ## What a halt and a cycle start tell (R5, R16) -/

/-- The notices once a commit that was pending has been swapped in (R47, R48). -/
def State.swapNotices (s : State) (n : Notices) (cycle : Option W32) : Notices :=
  if s.plans.commitPending = true then n.raise (.report (.committed cycle)) else n

theorem State.cycleStart_notices (s : State) :
    s.cycleStart.notices = s.swapNotices s.notices (some (s.seq.cycle + 1)) := by
  obtain ⟨-, -, -, -, -, -, -, -, told, -⟩ := s.startStages_parts
  rw [State.cycleStart_eq, State.swapNotices, ← told]
  simp

theorem State.swapPending_notices (s : State) (cycle : Option W32) :
    (s.swapPending cycle).notices = s.swapNotices s.notices cycle := by
  unfold State.swapPending State.swapNotices
  split <;> rfl

theorem State.enterHalted_notices (s : State) (cause : HaltCause) (phase : Nat) (subject : Option Nat) :
    (s.enterHalted cause phase subject).notices =
      (s.swapNotices s.notices none).raise (.report (.halted ⟨cause, s.seq.cycle, phase, subject⟩)) :=
  congrArg (fun n : Notices => n.raise (.report (.halted ⟨cause, s.seq.cycle, phase, subject⟩)))
    (State.swapPending_notices (s.haltStages ⟨cause, s.seq.cycle, phase, subject⟩) none)

/-! ## The windows that an edge meets (R93, R94) -/

/-- The windows of a plan that an edge at a cycle start meets: those whose opening phase is 0 (R93, R94). -/
def openedIds (windows : List Window) (i : Fin 4) (d : Slope) : List Nat :=
  (windows.filter fun w => decide (w.input = i ∧ w.edge = d ∧ w.openAt = 0 ∧ 0 < w.closeAt)).map Window.id

theorem State.cycleStart_lowestMet (s : State) (i : Fin 4) (d : Slope) :
    s.cycleStart.lowestMet i d = (openedIds s.cycleStart.monitor.windows i d).min? := by
  obtain ⟨seq, -, inProgress, -, prepared, -⟩ := s.cycleStart_spec
  have phase : s.cycleStart.seq.phase = 0 := by rw [seq]
  have met : ∀ w ∈ s.cycleStart.monitor.table, w.metBy i d 0 =
      decide (w.window.input = i ∧ w.window.edge = d ∧ w.window.openAt = 0 ∧ 0 < w.window.closeAt) := by
    intro w mem
    have unsettled : w.state.unsettled = true := by
      rw [(prepared w mem).2]
      split <;> rfl
    rw [Watch.metBy, unsettled, Bool.and_true]
    simp
  rw [State.lowestMet, Monitor.metIds, if_pos inProgress, phase, List.filter_congr met, openedIds, Monitor.windows,
    List.filter_map, List.map_map]
  rfl

/-- With no cycle in progress no window is met (R93). -/
theorem State.enterHalted_lowestMet (s : State) (cause : HaltCause) (phase : Nat) (subject : Option Nat) (i : Fin 4)
    (d : Slope) : (s.enterHalted cause phase subject).lowestMet i d = none := by
  obtain ⟨-, -, -, -, ended, -⟩ := s.enterHalted_spec cause phase subject
  rw [State.lowestMet, Monitor.metIds, ended]
  rfl

/-! ## The record (R78, R79) -/

theorem Mode.timing_eq (m : Mode) :
    m.timing = if m = .armed then .armed else if m = .waiting then .waiting else .inCycle := by cases m <;> rfl

theorem Mode.cycling_spec {m : Mode} (cycling : m = .cycling) : m.timing = .inCycle ∧ m.running = true := by
  rw [cycling]
  exact ⟨rfl, rfl⟩

/-- The plan whose selection an edge meets: the new one for an edge that starts a cycle (R78). -/
theorem captured_iff {before after : State} {i : Fin 4} {d : Slope} {decided : Decision}
    (h : before.decision i d = decided) :
    captured before after i d = true ↔
      before.seq.mode.running = true ∧
        (if decided.starts = true then after.plans.active else before.plans.active).captures i d := by
  unfold captured
  rw [h, Bool.and_eq_true, Plan.captures_iff]

/-- What the Capture Queue makes of an edge that the other two blocks have taken, its queue and its notices being those
given. -/
def State.edgeRecorded (s t : State) (i : Fin 4) (d : Slope) (window : Option Nat) (queue : Captures) (told : Notices) :
    Prop :=
  (captured s t i d = false → t.captures = queue) ∧
    (captured s t i d = true → t.recorded queue told (edgeRecord s t i d window))

theorem State.captureEdge_recorded (before after : State) (i : Fin 4) (d : Slope) (window : Option Nat) :
    before.edgeRecorded (State.captureEdge before after i d window).arbitrate i d window after.captures after.notices := by
  obtain ⟨seq, plans, -⟩ := State.captureEdge_took before after i d window
  have same : captured before (State.captureEdge before after i d window).arbitrate i d = captured before after i d := by
    unfold captured
    rw [plans]
  have record : edgeRecord before (State.captureEdge before after i d window).arbitrate i d window =
      edgeRecord before after i d window := by
    unfold edgeRecord
    rw [seq]
  unfold State.edgeRecorded
  rw [same, record]
  refine ⟨fun none => ?_, fun takes => ?_⟩
  · rw [State.captureEdge, none]
    simp
  · rw [State.captureEdge, if_pos takes]
    exact State.record_spec _ _

/-- What the Cycle Controller makes of an edge whatever the windows' states is what the Capture Queue finds, in either order
of the two other blocks; the window is the one met before the Cycle Controller's part or behind it (R77, R95). -/
theorem State.takeInputEdge_records {s : State} {i : Fin 4} {d : Slope} (first : Bool) {seq : Sequencer} {queue : Captures}
    {told : Notices}
    (led : ∀ m, (State.controllerTakes { s with monitor := m } i d).seq = seq ∧
      (State.controllerTakes { s with monitor := m } i d).captures = queue ∧
      (State.controllerTakes { s with monitor := m } i d).notices = told) :
    (s.takeInputEdge i d first).arbitrate.seq = seq ∧
      ∃ window,
        (window = s.lowestMet i d ∨
          window = (s.controllerTakes i d).lowestMet i d ∧
            (s.takeInputEdge i d first).arbitrate.monitor.windows = (s.controllerTakes i d).monitor.windows) ∧
        s.edgeRecorded (s.takeInputEdge i d first).arbitrate i d window queue told := by
  obtain ⟨seq', -, -, -, monitor, -⟩ := s.takeInputEdge_took i d first
  cases first with
  | true =>
    obtain ⟨hseq, hqueue, htold⟩ := led (s.monitor.meet i d s.seq.phase)
    have recorded := State.captureEdge_recorded s ((s.monitorTakes i d).controllerTakes i d) i d (s.lowestMet i d)
    rw [← hseq, ← hqueue, ← htold]
    exact ⟨seq', _, .inl rfl, recorded⟩
  | false =>
    obtain ⟨hseq, hqueue, htold⟩ := led s.monitor
    have recorded := State.captureEdge_recorded s ((s.controllerTakes i d).monitorTakes i d) i d
      ((s.controllerTakes i d).lowestMet i d)
    have windows : ((s.controllerTakes i d).monitorTakes i d).monitor.windows = (s.controllerTakes i d).monitor.windows :=
      Monitor.meet_windows _ _ _ _
    rw [← hseq, ← hqueue, ← htold]
    exact ⟨seq', _, .inr ⟨rfl, (congrArg Monitor.windows monitor).trans windows⟩, recorded⟩

/-- The record of an edge taken in a running state, spelled out. -/
theorem State.edgeRecorded.spelled {s t : State} {i : Fin 4} {d : Slope} {window : Option Nat} {queue : Captures}
    {told : Notices} {decided : Decision} (h : s.edgeRecorded t i d window queue told) (decision : s.decision i d = decided)
    (running : s.seq.mode.running = true) {plan : Plan} (named : (if decided.starts = true then t.plans.active else
      s.plans.active) = plan) :
    (¬ plan.captures i d → t.captures = queue) ∧
      (plan.captures i d →
        t.recorded queue told
          ⟨0, i, d, if decided.starts = true then t.seq.cycle else s.seq.cycle,
            if decided.starts = true then 0 else s.seq.phase, s.seq.mode.timing, decided.role, window, none⟩) := by
  obtain ⟨leaves, records⟩ := h
  have selects : captured s t i d = true ↔ plan.captures i d := by
    rw [captured_iff decision, named]
    exact and_iff_right running
  refine ⟨fun none => leaves (by simpa using mt selects.mp none), fun takes => ?_⟩
  have record := records (selects.mpr takes)
  rwa [edgeRecord, decision] at record

/-! ## The Cycle Controller's decisions -/

/-- An edge that starts no cycle and ends none meets its window before or behind the Cycle Controller's part alike. -/
theorem State.takeInputEdge_plain_records {s : State} {i : Fin 4} {d : Slope} (plain : s.decision i d = .plain)
    (first : Bool) :
    s.edgeRecorded (s.takeInputEdge i d first).arbitrate i d (s.lowestMet i d) s.captures s.notices := by
  have acts (x : State) (same : x.decision i d = .plain) : x.controllerTakes i d = x := by
    rw [State.controllerTakes, same]
  obtain ⟨-, window, lowest, recorded⟩ := State.takeInputEdge_records (s := s) (i := i) (d := d) first
    (queue := s.captures) (told := s.notices) fun m => by
      rw [acts { s with monitor := m } plain]
      exact ⟨rfl, rfl, rfl⟩
  rw [acts s plain] at lowest
  rcases lowest with rfl | ⟨rfl, -⟩ <;> exact recorded

/-- An edge below the guard is counted as early and told before the record (R9). -/
theorem State.takeInputEdge_early_records {s : State} {i : Fin 4} {d : Slope} (early : s.decision i d = .early)
    (first : Bool) :
    s.edgeRecorded (s.takeInputEdge i d first).arbitrate i d (s.lowestMet i d) (s.countEarly i).captures
      (s.notices.raise (.merging (.earlyStart i) s.seq.cycle)) := by
  have acts (x : State) (same : x.decision i d = .early) :
      x.controllerTakes i d = (x.countEarly i).raise (.merging (.earlyStart i) x.seq.cycle) := by
    rw [State.controllerTakes, same]
  obtain ⟨-, window, lowest, recorded⟩ := State.takeInputEdge_records (s := s) (i := i) (d := d) first
    (queue := (s.countEarly i).captures) (told := s.notices.raise (.merging (.earlyStart i) s.seq.cycle)) fun m => by
      rw [acts { s with monitor := m } early]
      exact ⟨rfl, rfl, rfl⟩
  rw [acts s early] at lowest
  rcases lowest with rfl | ⟨rfl, -⟩ <;> exact recorded

/-- The notices once the cycle in progress, if there is one, has been cut (R10). -/
def State.cutNotices (s : State) : Notices :=
  if s.seq.mode = .cycling then s.notices.raise (.merging .cycleCut s.seq.cycle) else s.notices

/-- A start edge starts a cycle: in ARMED, in WAITING, or from the guard on in a cycle that is not the last (R8, R10). -/
def State.mayStart (s : State) : Prop :=
  s.seq.mode = .armed ∨ s.seq.mode = .waiting ∨
    (s.seq.mode = .cycling ∧ s.block.guard ≤ s.seq.phase) ∧ ¬ (s.seq.finish = true ∨ s.seq.remaining = some 0)

/-- What a start edge starts a cycle from: the state as it stands, or as a cut leaves it (R8, R10). -/
theorem State.decision_starts {s : State} {i : Fin 4} {d : Slope} (start : s.isStart i d = true)
    (h : s.mayStart) :
    (s.decision i d).starts = true ∧ (s.decision i d).role = .start ∧ s.seq.mode.running = true ∧
      ∃ u : State, s.controllerTakes i d = u.cycleStart ∧ u.seq = s.seq ∧ u.plans = s.plans ∧ u.captures = s.captures ∧
        u.notices = s.cutNotices := by
  rcases or_assoc.mpr h with waits | ⟨⟨cycling, late⟩, goesOn⟩
  · have running : s.seq.mode.running = true := by rcases waits with mode | mode <;> rw [mode] <;> rfl
    have uncut : s.notices = s.cutNotices := by rcases waits with mode | mode <;> simp [State.cutNotices, mode]
    rw [State.controllerTakes, State.decision_started start waits]
    exact ⟨rfl, rfl, running, s, rfl, rfl, rfl, rfl, uncut⟩
  · have decided : s.decision i d = .cutStarted :=
      (State.decision_cycling start cycling).trans ((if_neg (Nat.not_lt.mpr late)).trans (if_neg goesOn))
    rw [State.controllerTakes, decided]
    exact ⟨rfl, rfl, by rw [cycling]; rfl, s.cutFrom, State.cut_goesOn goesOn, rfl, rfl, rfl, (if_pos cycling).symm⟩

/-- An edge that starts a cycle meets a window of the old cycle, or one of the new cycle at phase 0 (R95). -/
theorem State.takeInputEdge_starts_records {s : State} {i : Fin 4} {d : Slope} (start : s.isStart i d = true)
    (h : s.mayStart) (first : Bool) :
    (s.takeInputEdge i d first).arbitrate.seq = s.seq.begin ∧
      ∃ window,
        (window = s.lowestMet i d ∨
          window = (openedIds (s.takeInputEdge i d first).arbitrate.monitor.windows i d).min?) ∧
        s.edgeRecorded (s.takeInputEdge i d first).arbitrate i d window s.captures
          (s.swapNotices s.cutNotices (some (s.seq.cycle + 1))) := by
  obtain ⟨-, -, -, u, leads, -⟩ := State.decision_starts start h
  obtain ⟨seq, window, lowest, recorded⟩ := State.takeInputEdge_records (s := s) (i := i) (d := d) first
    (seq := s.seq.begin) (queue := s.captures) (told := s.swapNotices s.cutNotices (some (s.seq.cycle + 1))) fun m => by
      obtain ⟨-, -, -, v, leads, seq, plans, captures, notices⟩ :=
        State.decision_starts (s := { s with monitor := m }) start h
      rw [leads, State.cycleStart_notices, State.swapNotices, seq, plans, notices]
      exact ⟨v.cycleStart_spec.1.trans (congrArg Sequencer.begin seq), by simpa using captures, rfl⟩
  refine ⟨seq, window, lowest.imp_right fun ⟨met, windows⟩ => ?_, recorded⟩
  rw [met, windows, leads]
  exact u.cycleStart_lowestMet i d

/-- What a halt at a cut tells, behind the cut and the swap (R10, R16). -/
def State.lastNotices (s : State) : Notices :=
  (s.swapNotices (s.notices.raise (.merging .cycleCut s.seq.cycle)) none).raise
    (.report (.halted ⟨s.seq.lastCause, s.seq.cycle, s.seq.phase, none⟩))

/-- An edge that cuts the last cycle meets a window of it, or none behind the cut (R10, R93). -/
theorem State.takeInputEdge_ends_records {s : State} {i : Fin 4} {d : Slope} (cuts : s.decision i d = .cutHalted)
    (last : s.seq.finish = true ∨ s.seq.remaining = some 0) (first : Bool) :
    ∃ window, (window = s.lowestMet i d ∨ window = none) ∧
      s.edgeRecorded (s.takeInputEdge i d first).arbitrate i d window s.captures s.lastNotices := by
  have acts (x : State) (same : x.decision i d = .cutHalted) (ends : x.seq.finish = true ∨ x.seq.remaining = some 0) :
      x.controllerTakes i d = x.cutFrom.enterHalted x.seq.lastCause x.seq.phase none := by
    rw [State.controllerTakes, same, ← State.cut_ends ends]
  obtain ⟨-, window, lowest, recorded⟩ := State.takeInputEdge_records (s := s) (i := i) (d := d) first
    (seq := s.seq.stop ⟨s.seq.lastCause, s.seq.cycle, s.seq.phase, none⟩) (queue := s.captures)
    (told := s.lastNotices) fun m => by
      rw [acts { s with monitor := m } cuts last, State.enterHalted_notices]
      exact ⟨(State.enterHalted_spec _ _ _ _).1, by simp [State.cutFrom], rfl⟩
  refine ⟨window, lowest.imp_right fun ⟨met, _⟩ => ?_, recorded⟩
  rw [met, acts s cuts last]
  exact State.enterHalted_lowestMet _ _ _ _ _ _

/-- Settles O39, by the Cycle Controller's decision: none, an early edge, a cycle start, a cut that ends. -/
theorem capturedEdgeBecomesARecord : Obligations.CapturedEdgeBecomesARecord := by
  intro s i d live due start lastOf cutting timing met cut cause
  let s' : State := { s.onInput i Filter.settle with choices := s.choices + 1 }
  let first := Config.monitorFirst s.choices
  have runs : exec (.inputEdge i d) s = .next (s'.takeInputEdge i d first).arbitrate :=
    congrArg Host.Outcome.next (if_pos (by rw [live, due]; rfl))
  have isStart : s'.isStart i d = true ↔ start := s'.isStart_iff i d
  have takenIn : s'.seq.mode.timing = timing := Mode.timing_eq _
  refine ⟨_, runs, fun stands => ?_, fun running plain => ?_, fun starts cycling below => ?_, fun starts begins => ?_,
    fun starts cuts ends => ?_⟩
  · have decided : s'.decision i d = .plain := by
      refine State.decision_stands i d ?_
      change s.seq.mode = .idle ∨ s.seq.mode = .halted
      cases mode : s.seq.mode <;> simp_all [Mode.running]
    refine (State.takeInputEdge_plain_records decided first).1 (Bool.eq_false_iff.mpr fun takes => ?_)
    rw [captured_iff decided] at takes
    exact absurd (stands.symm.trans takes.1) (by decide)
  · have decided : s'.decision i d = .plain := State.decision_of_not_start (mt isStart.mp plain)
    have recorded := (State.takeInputEdge_plain_records decided first).spelled decided running rfl
    rw [takenIn] at recorded
    exact recorded
  · intro early
    have decided : s'.decision i d = .early :=
      (State.decision_cycling (isStart.mpr starts) cycling).trans (if_pos below)
    obtain ⟨inCycle, running⟩ := Mode.cycling_spec (m := s'.seq.mode) cycling
    have recorded := (State.takeInputEdge_early_records decided first).spelled decided running rfl
    rw [inCycle] at recorded
    exact recorded
  · intro ends told opened
    obtain ⟨newCycle, role, running, -⟩ := State.decision_starts (isStart.mpr starts) begins
    obtain ⟨seq, window, lowest, records⟩ := State.takeInputEdge_starts_records (isStart.mpr starts) begins first
    have recorded := records.spelled rfl running (if_pos newCycle)
    rw [takenIn, if_pos newCycle, if_pos newCycle, role, seq] at recorded
    exact ⟨window, lowest, recorded⟩
  · intro told
    obtain ⟨cycling, late⟩ := cuts
    have decided : s'.decision i d = .cutHalted :=
      (State.decision_cycling (isStart.mpr starts) cycling).trans ((if_neg (Nat.not_lt.mpr late)).trans (if_pos ends))
    obtain ⟨inCycle, running⟩ := Mode.cycling_spec (m := s'.seq.mode) cycling
    obtain ⟨window, lowest, records⟩ := State.takeInputEdge_ends_records decided ends first
    have recorded := records.spelled decided running rfl
    rw [inCycle] at recorded
    exact ⟨window, lowest, recorded⟩

end Sys2Proof.Machine
end

section
/-! The watch windows (chapter 5): opening, and the three ways a window is settled (R93, R94, R96 to R98). -/

set_option Elab.async false

namespace Sys2Proof.Machine

/-! ## Opening (R93) -/

theorem State.openDue_iff (s : State) (id : Nat) :
    s.openDue id = true ↔
      s.seq.mode = .cycling ∧ s.monitor.inProgress = true ∧
        ∃ w ∈ s.monitor.table, w.window.id = id ∧ w.state = .pending ∧ w.window.openAt = s.seq.phase := by
  simp [State.openDue, and_assoc]

theorem State.closeDue_iff (s : State) :
    s.closeDue = true ↔
      s.seq.mode = .cycling ∧ s.monitor.inProgress = true ∧
        ∃ w ∈ s.monitor.table, w.state = .opened ∧ w.window.closeAt = s.seq.phase := by
  simp [State.closeDue, Watch.missesAt, and_assoc]

/-- The windows that open for an id are the PENDING ones with that id whose open is the phase. -/
theorem Monitor.openOne_eq (m : Monitor) (id phase : Nat) :
    m.openOne id phase =
      { m with
        table :=
          m.table.map fun w =>
            if w.window.id = id ∧ w.state = .pending ∧ w.window.openAt = phase then { w with state := .opened } else w } := by
  have opens (w : Watch) : (if w.window.id = id then w.openAt phase else w) =
      if w.window.id = id ∧ w.state = .pending ∧ w.window.openAt = phase then { w with state := .opened } else w := by
    rw [ite_and]
    rfl
  rw [Monitor.openOne, funext opens]

/-! ## Settling windows: met, missed or abandoned (R94, R96 to R98) -/

/-- Some windows of the table come to an outcome, and each is counted on its id. An edge, a close and the abandon stage each
do this, with the windows, the outcome and the counter of their own. -/
def Monitor.settle (m : Monitor) (which : Watch → Bool) (outcome : Watch → Watch) (inProgress : Bool)
    (count : WindowTally → WindowTally) : Monitor :=
  ({ m with
      table := m.table.map fun w => if which w = true then outcome w else w
      inProgress := inProgress } : Monitor).countAll
    ((m.table.filter which).map fun w => w.window.id) count

/-- A row with an id among those chosen is a chosen row with that id. -/
theorem exists_mem_filter_id (table : List Watch) (which : Watch → Bool) (id : Nat) :
    (∃ w ∈ table.filter which, w.window.id = id) ↔ ∃ w ∈ table, w.window.id = id ∧ which w = true := by
  simp only [List.mem_filter, and_assoc, and_comm (a := which _ = true)]

section
variable (m : Monitor) (which : Watch → Bool) (outcome : Watch → Watch) (inProgress : Bool)
  (count : WindowTally → WindowTally)

@[simp] theorem Monitor.settle_table :
    (m.settle which outcome inProgress count).table = m.table.map fun w => if which w = true then outcome w else w :=
  (Monitor.countAll_keeps _ _ _).1

@[simp] theorem Monitor.settle_inProgress : (m.settle which outcome inProgress count).inProgress = inProgress :=
  (Monitor.countAll_keeps _ _ _).2

/-- With no id twice in the table, an id counts once when its window is settled. -/
theorem Monitor.settle_tallies (distinct : (m.table.map fun w => w.window.id).Nodup) (k : Fin 15) :
    (m.settle which outcome inProgress count).tallies.get k =
      if ∃ w ∈ m.table, w.window.id = k.val + 1 ∧ which w = true then count (m.tallies.get k) else m.tallies.get k := by
  have settled : ((m.table.filter which).map fun w => w.window.id).Nodup := distinct.sublist (List.filter_sublist.map _)
  rw [Monitor.settle, Monitor.countAll_tallies _ settled]
  simp only [List.mem_map, exists_mem_filter_id]

end

theorem WatchState.unsettled_eq (state : WatchState) : state.unsettled = decide (state = .pending ∨ state = .opened) := by
  cases state <;> rfl

/-- The windows an edge meets (R94). -/
theorem Watch.metBy_eq (i : Fin 4) (d : Slope) (phase : Nat) (w : Watch) :
    w.metBy i d phase =
      decide (w.window.input = i ∧ w.window.edge = d ∧ w.window.openAt ≤ phase ∧ phase < w.window.closeAt ∧
        (w.state = .pending ∨ w.state = .opened)) := by
  rw [Watch.metBy, WatchState.unsettled_eq, ← Bool.decide_and]
  simp only [and_assoc]

/-- A close settles the windows that miss there (R96). -/
theorem Monitor.close_eq_settle (m : Monitor) (phase : Nat) :
    m.close phase =
      m.settle (Watch.missesAt phase) (fun w => { w with state := .missed }) m.inProgress WindowTally.oneMissed := by
  rw [Monitor.close, Monitor.missing, List.map_map]
  rfl

/-- In a cycle an edge settles the windows that it meets (R94). -/
theorem Monitor.meet_eq_settle {m : Monitor} (cycle : m.inProgress = true) (i : Fin 4) (d : Slope) (phase : Nat) :
    m.meet i d phase =
      m.settle (Watch.metBy i d phase) (fun w => { w with state := .met, hit := some phase }) true WindowTally.oneMet := by
  rw [Monitor.meet, Monitor.metIds, if_pos cycle, if_pos cycle, cycle]
  rfl

/-- In a cycle the abandon stage settles every window that is not settled, and the cycle is over (R97). -/
theorem Monitor.abandon_eq_settle {m : Monitor} (cycle : m.inProgress = true) :
    m.abandon =
      m.settle (fun w => w.state.unsettled) (fun w => { w with state := .abandoned }) false WindowTally.oneCut :=
  if_pos cycle

/-- With no cycle in progress no window is met or abandoned (R93). -/
theorem Monitor.no_cycle {m : Monitor} (between : m.inProgress = false) (i : Fin 4) (d : Slope) (phase : Nat) :
    m.metIds i d phase = [] ∧ m.meet i d phase = m ∧ m.abandon = m := by
  simp [Monitor.metIds, Monitor.meet, Monitor.abandon, between]

/-- The misses that are reported, from the rows that close. -/
theorem Monitor.haltMisses_eq (m : Monitor) (phase : Nat) :
    m.haltMisses phase =
      ((m.table.filter (Watch.missesAt phase)).filter fun w => decide (w.window.policy = .halt)).map Watch.window := by
  rw [Monitor.haltMisses, Monitor.missing, List.filter_map]
  rfl

/-! ## The three happenings -/

/-- WINDOW_OPEN opens the windows with its id that open at the phase (R93). -/
theorem exec_windowOpen {s : State} {id : Nat} (live : s.live = true) (due : s.openDue id = true) :
    exec (.windowOpen id) s = .next { s with monitor := s.monitor.openOne id s.seq.phase } :=
  congrArg Host.Outcome.next (if_pos (by rw [live, due]; rfl))

/-- WINDOW_CLOSE closes at the phase, reports, and lets the arbiter choose (R96). -/
theorem exec_windowClose {s : State} (live : s.live = true) (due : s.closeDue = true) :
    exec .windowClose s = .next (s.closeAndReport s.seq.phase).arbitrate :=
  congrArg Host.Outcome.next (if_pos (by rw [live, due]; rfl))

/-- The link and the session stay through the happenings of a close. -/
theorem State.closeAndReport_link {s : State} (cycling : s.seq.mode = .cycling) (phase : Nat) :
    LinkKept s (s.closeAndReport phase) := by
  have closes : LinkKept s (s.closeWindows phase) := by simp [LinkKept]
  cases misses : s.monitor.haltMisses phase with
  | nil => rwa [State.closeAndReport_none misses]
  | cons w rest =>
    rw [State.closeAndReport_miss cycling misses]
    exact closes.trans (State.enterHalted_link _ _ _ _)

/-- A close changes the rows that miss and raises their notices, in the table's order (R96). -/
theorem State.closeWindows_spec (s : State) (phase : Nat) :
    s.closeWindows phase =
      { s with
        monitor := (s.closeWindows phase).monitor
        notices :=
          (s.monitor.table.filter (Watch.missesAt phase)).foldl
            (fun q w => q.raise (.merging (.windowMissed w.window.id) s.seq.cycle)) s.notices } := by
  rw [State.closeWindows_eq, Monitor.missing, List.foldl_map]

/-- Settles O44: WINDOW_OPEN and WINDOW_CLOSE by what is due, and the edge, the close and the abandon stage as the three
ways of settling windows. -/
theorem windowsOpenAndClose : Obligations.WindowsOpenAndClose := by
  refine ⟨fun s live cycling cycle => ⟨fun id opens => ?_, fun closes => ?_⟩, fun s phase => ?_, fun m i d phase => ?_⟩
  · rw [exec_windowOpen live ((s.openDue_iff id).mpr ⟨cycling, cycle, opens⟩), Monitor.openOne_eq]
  · refine ⟨_, exec_windowClose live (s.closeDue_iff.mpr ⟨cycling, cycle, closes⟩),
      (State.closeAndReport_link cycling _).trans (State.arbitrate_agrees _).link, fun noMiss => ?_, fun w rest misses => ?_⟩
    · rw [State.closeAndReport_none noMiss]
      exact State.arbitrate_agrees _
    · have atPhase : w.closeAt = s.seq.phase := Monitor.haltMisses_closeAt (misses ▸ List.mem_cons_self)
      rw [State.closeAndReport_miss cycling misses, atPhase]
      exact (State.enterHalted_arbitrate _ _ _ _).2
  · intro closed closing
    have settles : closed.monitor = s.monitor.settle (Watch.missesAt phase) (fun w => { w with state := .missed })
        s.monitor.inProgress WindowTally.oneMissed :=
      (congrArg State.monitor (s.closeWindows_eq phase)).trans (s.monitor.close_eq_settle phase)
    refine ⟨s.closeWindows_spec phase, ?_, ?_, s.monitor.haltMisses_eq phase, fun distinct k => ?_⟩
    · rw [settles, Monitor.settle_inProgress]
    · rw [settles, Monitor.settle_table]
      simp only [Watch.missesAt, decide_eq_true_eq]
    · rw [settles, Monitor.settle_tallies _ _ _ _ _ distinct]
      simp only [closing, exists_mem_filter_id]
      rfl
  · intro meets unsettled
    have isMet : Watch.metBy i d phase = meets := funext (Watch.metBy_eq i d phase)
    have isUnsettled : (fun w : Watch => w.state.unsettled) = unsettled := funext fun w => w.state.unsettled_eq
    refine ⟨fun between => Monitor.no_cycle between i d phase, fun cycle => ?_⟩
    rw [Monitor.meet_eq_settle cycle, Monitor.abandon_eq_settle cycle, Monitor.metIds, if_pos cycle, isMet, isUnsettled]
    exact ⟨rfl, Monitor.settle_inProgress _ _ _ _ _, Monitor.settle_inProgress _ _ _ _ _, Monitor.settle_table _ _ _ _ _,
      Monitor.settle_table _ _ _ _ _, fun distinct k =>
        ⟨Monitor.settle_tallies _ _ _ _ _ distinct k, Monitor.settle_tallies _ _ _ _ _ distinct k⟩⟩

end Sys2Proof.Machine
end

section
/-! The requests of the Profile Store (chapter 6): those that write, and those that report. -/

-- The text is long enough that elaborating its proofs in threads of their own would exceed the memory limit.
set_option Elab.async false

namespace Sys2Proof.Machine

/-! ## Requests that the store accepts (R106) -/

/-- A state with another store and other notices. -/
def State.withStore (s : State) (store : Store) (told : Notices) : State := { s with store := store, notices := told }

theorem State.taken_withStore_agrees (s : State) (code : Nat) (q : Req) (store : Store) (told : Notices) :
    ((s.taken code q).withStore store told).agrees (s.withStore store told) := by
  unfold State.taken State.uncache
  split <;> rfl

/-- A request whose owner accepts an operation: it changes the store, and raises what the operation tells at once. -/
theorem requestStep_accepted {π : Type} {code : Nat} {read : List Byte → Option π} {owner : π → State → Answer} {q : Req}
    {s : State} {p : π} {c : Instr} {store : Store} {told : Notices}
    (hc : exec c s = requestStep code read owner q s) (h : s.ready code q) (hp : read q.params = some p)
    (accepts : owner p (s.taken code q) = accepted ((s.taken code q).withStore store told)) :
    Answers c s code q (s.withStore store told) .accepted [] := by
  have agrees := s.taken_withStore_agrees code q store told
  exact requestStep_answers hc h hp (by rwa [accepts]) (by rw [accepts]; rfl) (by rw [accepts]; rfl)
    (by rw [accepts]; simp [accepted, State.withStore])

/-- The store with an operation begun (R106). -/
def Store.busyWith (st : Store) (op : StoreOp) (steps : List MediaStep) (worn : Bool) : Store :=
  { st with status := .busy, job := some ⟨.op op, steps, false, worn, false, 0⟩ }

/-- The store once an operation has failed (R106, R113). -/
def Store.failed (st : Store) : Store := { st with status := .readOnly, job := none }

theorem State.beginOp_eq (s : State) (op : StoreOp) (steps : List MediaStep) (worn : Bool) :
    s.beginOp op steps worn = s.withStore (s.store.busyWith op steps worn) s.notices := rfl

theorem State.endOp_verifyFailed (s : State) (op : StoreOp) (compacted worn : Bool) :
    s.endOp op .verifyFailed compacted worn =
      s.withStore s.store.failed (s.notices.raise (.report (.storeDone op .verifyFailed compacted))) := rfl

/-! ## The order of a writing request's examination (R106) -/

theorem writing_bad {s : State} {bad : Option Nat} {k : Nat} (h : bad = some k) (rest : Answer) :
    writing s bad rest = refuse s (.badValue k) := by
  rw [h, writing]

theorem writing_busy {s : State} {bad : Option Nat} (good : bad = none) (busy : s.store.status = .busy) (rest : Answer) :
    writing s bad rest = refuse s .storeBusy := by
  rw [good, writing, if_pos busy]

theorem writing_readOnly {s : State} {bad : Option Nat} (good : bad = none) (readOnly : s.store.status = .readOnly)
    (rest : Answer) : writing s bad rest = refuse s .storeReadOnly := by
  simp [good, writing, readOnly]

theorem writing_ready {s : State} {bad : Option Nat} (good : bad = none) (ready : s.store.status = .ready)
    (rest : Answer) : writing s bad rest = rest := by
  simp [good, writing, ready]

/-! ## Writing one record (R107, R109, R111, R114) -/

theorem State.bank_current {s : State} {bank : Bank} (current : s.store.dir.bank = some bank) : s.bank = bank := by
  rw [State.bank, current, Option.getD_some]

/-- Wear blocks the first erase of a compaction into a bank (R109, R114). -/
def Media.firstEraseBlocked (m : Media) (bank : Bank) : Prop :=
  m.bankState bank ≠ some .fresh ∧ 50000 ≤ m.takenCount bank

theorem Media.firstEraseBlocked_iff (m : Media) (bank : Bank) :
    (m.mustErase bank && m.wornOut bank) = true ↔ m.firstEraseBlocked bank := by
  rw [Bool.and_eq_true]
  exact and_congr decide_eq_true_iff decide_eq_true_iff

/-- The steps of a record behind those of a compaction out of a bank (R109). -/
def State.compactedSteps (s : State) (bank : Bank) (steps : Directory → Bank → List MediaStep) : List MediaStep :=
  (compactionSteps s.media s.store.dir bank).1 ++ steps (s.store.dir.repacked bank.other) bank.other

/-- The three ways of an operation that writes one record: it fits, wear blocks its compaction, or the compaction is made
first (R107, R109, R111, R114). -/
theorem State.writeRecord_cases {s : State} {bank : Bank} (current : s.store.dir.bank = some bank) (op : StoreOp)
    (size : Nat) (steps : Directory → Bank → List MediaStep) :
    (size ≤ s.store.dir.free →
      s.writeRecord op size steps = s.withStore (s.store.busyWith op (steps s.store.dir bank) false) s.notices) ∧
    (s.store.dir.free < size →
      (s.media.firstEraseBlocked bank.other →
        s.writeRecord op size steps =
          s.withStore s.store.failed (s.notices.raise (.report (.storeDone op .verifyFailed false)))) ∧
      (¬ s.media.firstEraseBlocked bank.other →
        s.writeRecord op size steps =
          s.withStore
            (s.store.busyWith op (s.compactedSteps bank steps) (compactionSteps s.media s.store.dir bank).2)
            s.notices)) := by
  unfold State.writeRecord
  rw [State.bank_current current]
  refine ⟨fun fits => ?_, fun tooBig => ⟨fun blocked => ?_, fun free => ?_⟩⟩
  · rw [if_pos fits, State.beginOp_eq]
  · rw [if_neg (Nat.not_le.mpr tooBig), if_pos ((Media.firstEraseBlocked_iff _ _).mpr blocked), State.endOp_verifyFailed]
  · rw [if_neg (Nat.not_le.mpr tooBig), if_neg (mt (Media.firstEraseBlocked_iff _ _).mp free), State.beginOp_eq,
      State.compactedSteps]

/-- A request whose owner accepts the writing of one record. -/
theorem requestStep_writesRecord {π : Type} {code : Nat} {read : List Byte → Option π} {owner : π → State → Answer}
    {q : Req} {s : State} {p : π} {c : Instr} {op : StoreOp} {size : Nat} {steps : Directory → Bank → List MediaStep}
    {bank : Bank} (hc : exec c s = requestStep code read owner q s) (h : s.ready code q) (hp : read q.params = some p)
    (writes : owner p (s.taken code q) = accepted ((s.taken code q).writeRecord op size steps))
    (current : s.store.dir.bank = some bank) :
    (size ≤ s.store.dir.free →
      Answers c s code q (s.withStore (s.store.busyWith op (steps s.store.dir bank) false) s.notices) .accepted []) ∧
    (s.store.dir.free < size →
      (s.media.firstEraseBlocked bank.other →
        Answers c s code q
          (s.withStore s.store.failed (s.notices.raise (.report (.storeDone op .verifyFailed false)))) .accepted []) ∧
      (¬ s.media.firstEraseBlocked bank.other →
        Answers c s code q
          (s.withStore
            (s.store.busyWith op (s.compactedSteps bank steps) (compactionSteps s.media s.store.dir bank).2)
            s.notices) .accepted [])) := by
  have ways := State.writeRecord_cases (s := s.taken code q) (bank := bank) (by simpa using current) op size steps
  simp only [State.compactedSteps, State.taken_keeps] at ways
  obtain ⟨fits, compacts⟩ := ways
  exact ⟨fun room => requestStep_accepted hc h hp (writes.trans (congrArg accepted (fits room))),
    fun tooBig =>
      ⟨fun blocked => requestStep_accepted hc h hp (writes.trans (congrArg accepted ((compacts tooBig).1 blocked))),
        fun free => requestStep_accepted hc h hp (writes.trans (congrArg accepted ((compacts tooBig).2 free)))⟩⟩

/-! ## PROFILE_SAVE (R107) -/

theorem readSave_name {params : List Byte} {n l : Byte} {name : List Byte} (h : params = n :: l :: name)
    (length : l.toNat = name.length) : readSave params = some (n.toNat, name) := by
  rw [h, readSave, if_pos length.symm]

theorem saveBad_slot {n : Nat} (out : 8 ≤ n) (name : List Byte) : saveBad (n, name) = some 1 := by
  simp [saveBad, firstBad, Nat.not_lt.mpr out]

theorem saveBad_name {n : Nat} (inside : n < 8) {name : List Byte} (bad : nameOk name = false) :
    saveBad (n, name) = some 2 := by
  simp [saveBad, firstBad, inside, bad]

theorem saveBad_none {n : Nat} (inside : n < 8) {name : List Byte} (good : nameOk name = true) :
    saveBad (n, name) = none := by
  simp [saveBad, firstBad, inside, good]

/-- A save with its fields in range, at a store that is READY, writes the active plan's record (R107). -/
theorem profileSaveOwner_writes {s : State} {n : Nat} {slot : Fin 8} (number : n = slot.val) {name : List Byte}
    (good : nameOk name = true) (ready : s.store.status = .ready) :
    profileSaveOwner (n, name) s =
      accepted
        (s.writeRecord (.save slot) (recordSize s.plans.active.bytes.length) fun d bank =>
          saveSteps d bank slot name s.plans.active.bytes) := by
  rw [profileSaveOwner, writing_ready (saveBad_none (number ▸ slot.isLt) good) ready, finOfCode_iff.mpr number]

/-- Settles O20: the fields, the store's state, then the record by the space it needs. -/
theorem profileSaveIsAccepted : Obligations.ProfileSaveIsAccepted := by
  intro s q n l name ready params length
  have read := readSave_name params length
  have status : (s.taken 26 q).store.status = s.store.status := by simp
  have plan : (s.taken 26 q).plans = s.plans := by simp
  refine ⟨fun out => requestStep_refused rfl ready read (writing_bad (saveBad_slot out name) _),
    fun inside bad => requestStep_refused rfl ready read (writing_bad (saveBad_name inside bad) _),
    fun slot number good => ?_⟩
  have inRange := saveBad_none (number ▸ slot.isLt) good
  refine ⟨fun busy => requestStep_refused rfl ready read (writing_busy inRange (status.trans busy) _),
    fun readOnly => requestStep_refused rfl ready read (writing_readOnly inRange (status.trans readOnly) _),
    fun bank isReady current => ?_⟩
  have writes := profileSaveOwner_writes number good (status.trans isReady)
  rw [plan] at writes
  exact requestStep_writesRecord rfl ready read writes current

/-! ## BOOT_SET (R111) -/

theorem slotOrNone_out {n : Nat} (out : 8 ≤ n) (named : n < 255) : slotOrNone n = none := by
  rw [slotOrNone, if_neg (by omega), finOfCode_none.mpr out]
  rfl

theorem slotOrNone_selects {n : Nat} {sel : Option (Fin 8)}
    (selects : n = 255 ∧ sel = none ∨ ∃ i : Fin 8, n = i.val ∧ sel = some i) : slotOrNone n = some sel := by
  obtain ⟨rfl, rfl⟩ | ⟨i, rfl, rfl⟩ := selects
  · rfl
  · rw [slotOrNone, if_neg (by omega), finOfCode_iff.mpr rfl]
    rfl

theorem autoRunBad_none {a : Nat} (range : a ≤ 1) : firstBad [(2, decide (a ≤ 1))] = none := by
  simp [firstBad, range]

theorem autoRunBad_some {a : Nat} (out : 1 < a) : firstBad [(2, decide (a ≤ 1))] = some 2 := by
  simp [firstBad, Nat.not_le.mpr out]

/-- With the slot's byte in range, what BOOT_SET's owner examines next (R106, R111). -/
theorem bootSetOwner_selects {f : Nat × Nat} {sel : Option (Fin 8)} (selects : slotOrNone f.1 = some sel) (s : State) :
    ∃ rest, bootSetOwner f s = writing s (firstBad [(2, decide (f.2 ≤ 1))]) rest ∧
      (∀ i, sel = some i → s.store.dir.slots.get i = none → rest = refuse s .emptySlot) ∧
      ((∀ i, sel = some i → s.store.dir.slots.get i ≠ none) → rest = s.selectBoot sel (decide (f.2 = 1))) := by
  rw [bootSetOwner, selects]
  refine ⟨_, rfl, ?_⟩
  cases sel with
  | none => exact ⟨fun _ h => (nomatch h), fun _ => rfl⟩
  | some slot =>
    refine ⟨fun i chosen empty => ?_, fun filled => ?_⟩
    · obtain rfl := Option.some.inj chosen
      simp [empty]
    · exact if_pos (Option.isSome_iff_ne_none.mpr (filled slot rfl))

theorem Byte.toNat_eq_one (a : Byte) : decide (a.toNat = 1) = decide (a = 1) :=
  decide_eq_decide.mpr ⟨fun h => BitVec.eq_of_toNat_eq h, fun h => h ▸ rfl⟩

/-- Settles O23: the fields, the store's state, the slot, then the record by the space it needs. -/
theorem bootSetIsAccepted : Obligations.BootSetIsAccepted := by
  intro s q n a ready params
  have read := readTwo_pair params
  refine ⟨fun out named => requestStep_refused (owner := bootSetOwner) rfl ready read ?_, fun sel selects => ?_⟩
  · rw [bootSetOwner, slotOrNone_out out named]
  · obtain ⟨rest, examined, empties, fills⟩ :=
      bootSetOwner_selects (f := (n.toNat, a.toNat)) (slotOrNone_selects selects) (s.taken 28 q)
    have status : (s.taken 28 q).store.status = s.store.status := by simp
    simp only [State.taken_keeps] at empties fills
    refine ⟨fun out => requestStep_refused rfl ready read (examined.trans (writing_bad (autoRunBad_some out) _)),
      fun range busy =>
        requestStep_refused rfl ready read
          (examined.trans (writing_busy (autoRunBad_none range) (status.trans busy) _)),
      fun range readOnly =>
        requestStep_refused rfl ready read
          (examined.trans (writing_readOnly (autoRunBad_none range) (status.trans readOnly) _)),
      fun i range isReady chosen empty =>
        requestStep_refused rfl ready read
          ((examined.trans (writing_ready (autoRunBad_none range) (status.trans isReady) _)).trans
            (empties i chosen empty)),
      fun bank range isReady current filled => ?_⟩
    have writes := (examined.trans (writing_ready (autoRunBad_none range) (status.trans isReady) _)).trans (fills filled)
    rw [Byte.toNat_eq_one] at writes
    exact requestStep_writesRecord rfl ready read writes current

/-! ## PROFILE_DELETE (R110) and STORE_FORMAT (R112) -/

theorem profileDeleteOwner_out {n : Nat} (out : 8 ≤ n) (s : State) : profileDeleteOwner n s = refuse s (.badValue 1) := by
  rw [profileDeleteOwner, finOfCode_none.mpr out]

/-- With the slot's number in range, what PROFILE_DELETE's owner examines next (R106, R110). -/
theorem profileDeleteOwner_fin {n : Nat} {slot : Fin 8} (number : n = slot.val) (s : State) :
    ∃ rest, profileDeleteOwner n s = writing s none rest ∧
      (s.store.dir.slots.get slot = none → rest = refuse s .emptySlot) ∧
      ∀ e, s.store.dir.slots.get slot = some e →
        rest = accepted (s.beginOp (.delete slot) (deleteSteps s.bank slot e) false) := by
  rw [profileDeleteOwner, finOfCode_iff.mpr number]
  exact ⟨_, rfl, fun empty => by rw [empty], fun e found => by rw [found]⟩

/-- The store as a format finds it, with both erase counts read (R101, R112). -/
def Store.counted (st : Store) (m : Media) : Store := { st with countA := m.takenCount .a, countB := m.takenCount .b }

theorem Media.formatBlocked_iff (m : Media) :
    m.formatBlocked = true ↔ 50000 ≤ m.takenCount .a ∨ 50000 ≤ m.takenCount .b := by
  rw [Media.formatBlocked, Bool.or_eq_true]
  exact or_congr decide_eq_true_iff decide_eq_true_iff

/-- A format is refused while an operation is in progress, ended at once where wear blocks it, and else begun (R112). -/
theorem storeFormatOwner_cases (s : State) :
    (s.store.status = .busy → storeFormatOwner () s = refuse s .storeBusy) ∧
    (s.store.status ≠ .busy → s.media.formatBlocked = true →
      storeFormatOwner () s =
        accepted
          (s.withStore (s.store.counted s.media).failed
            (s.notices.raise (.report (.storeDone .format .verifyFailed false))))) ∧
    (s.store.status ≠ .busy → ¬ s.media.formatBlocked = true →
      storeFormatOwner () s =
        accepted
          (s.withStore
            (({ s.store.counted s.media with dir := Directory.blank } : Store).busyWith .format
              (formatSteps s.media [] [.formatted]) false)
            s.notices)) := by
  unfold storeFormatOwner
  refine ⟨fun busy => if_pos busy, fun idle blocked => ?_, fun idle free => ?_⟩
  · rw [if_neg idle, if_pos blocked, State.endOp_verifyFailed]
    rfl
  · rw [if_neg idle, if_neg free, State.beginOp_eq]
    rfl

/-- Settles O22: a delete by the slot and the store's state, a format by the store's state and the wear of the banks. -/
theorem profileDeleteAndFormatAreAccepted : Obligations.ProfileDeleteAndFormatAreAccepted := by
  refine ⟨fun s q n ready params => ?_, fun s q ready params => ?_⟩
  · have read := readOne_singleton params
    refine ⟨fun out => requestStep_refused rfl ready read (profileDeleteOwner_out out _), fun slot number => ?_⟩
    obtain ⟨rest, examined, empties, fills⟩ := profileDeleteOwner_fin number (s.taken 27 q)
    have status : (s.taken 27 q).store.status = s.store.status := by simp
    refine ⟨fun busy => requestStep_refused rfl ready read (examined.trans (writing_busy rfl (status.trans busy) _)),
      fun readOnly => requestStep_refused rfl ready read (examined.trans (writing_readOnly rfl (status.trans readOnly) _)),
      fun isReady empty => ?_, fun bank e isReady current found => ?_⟩
    · have goesOn := examined.trans (writing_ready rfl (status.trans isReady) _)
      exact requestStep_refused rfl ready read (goesOn.trans (empties (by simpa using empty)))
    · have goesOn := examined.trans (writing_ready rfl (status.trans isReady) _)
      have accepts := goesOn.trans (fills e (by simpa using found))
      rw [State.bank_current (bank := bank) (by simpa using current), State.beginOp_eq] at accepts
      simp only [State.taken_keeps] at accepts
      exact requestStep_accepted rfl ready read accepts
  · have read := readNothing_nil params
    obtain ⟨busy, blocked, begun⟩ := storeFormatOwner_cases (s.taken 29 q)
    simp only [State.taken_keeps] at busy blocked begun
    refine ⟨fun h => requestStep_refused rfl ready read (busy h),
      fun idle belowA belowB => requestStep_accepted rfl ready read (begun idle ?_),
      fun idle worn => requestStep_accepted rfl ready read (blocked idle (s.media.formatBlocked_iff.mpr worn))⟩
    rw [Media.formatBlocked_iff]
    omega

/-! ## PROFILE_LIST (R117) and STORE_STATUS (R118) -/

/-- What STORE_STATUS says of an operation in progress (R118). -/
theorem Job.statusBytes_op {j : Job} {op : StoreOp} {step : MediaStep} {rest : List MediaStep} (kind : j.kind = .op op)
    (steps : j.steps = step :: rest) :
    j.statusBytes = some (be1 op.code ++ orFF (op.slot.map Fin.val) ++ be1 (yesNo step.compacting)) := by
  rw [Job.statusBytes, kind, Job.compacting, steps]

/-- Settles O25: both owners report and leave the state as it is. -/
theorem storeReportsChangeNothing : Obligations.StoreReportsChangeNothing := by
  intro s q params
  have read := readNothing_nil params
  refine ⟨fun ready => requestStep_reports (owner := profileListOwner) rfl ready read ?_, fun ready => ?_⟩
  · have slots : (s.taken 31 q).store = s.store := by simp
    rw [profileListOwner, slots]
    refine congrArg (fun payload => (⟨_, .ok, payload, false⟩ : Answer)) (congrArg₂ (· ++ ·) ?_ ?_)
    · refine congrArg List.flatten (List.map_congr_left fun e _ => ?_)
      cases e <;> rfl
    · rcases s.store.dir.boot with _ | ⟨_, _ | _, auto, _⟩ <;> rfl
  · have store : (s.taken 32 q).store = s.store := by simp
    refine ⟨fun none => requestStep_reports rfl ready read ?_,
      fun j op step rest under kind steps => requestStep_reports rfl ready read ?_⟩
    · rw [storeStatusOwner, store, none]
      rfl
    · rw [storeStatusOwner, store, under, Option.bind_some, Job.statusBytes_op kind steps]
      rcases op with _ | _ | (_ | _) | _ <;> cases step.compacting <;> rfl

end Sys2Proof.Machine
end

section
/-! The media steps of the Profile Store's writing operations, and what each brings to the directory (R101 to R112). -/

-- The text is long enough that elaborating its proofs in threads of their own would exceed the memory limit.
set_option Elab.async false

namespace Sys2Proof.Machine

/-! ## Records (R108, R111, R175) -/

theorem recordHeader_eq (kind slot writeNumber : Nat) (name body : List Byte) :
    recordHeader kind slot writeNumber name body = startedHeader kind slot writeNumber name body := by
  simp only [recordHeader, startedHeader, be1, erased, List.append_assoc, List.cons_append, List.nil_append]

theorem saveSteps_spec (d : Directory) (bank : Bank) (slot : Fin 8) (name body : List Byte) :
    ∃ steps,
      writesRecord steps bank (16384 - d.free) (startedHeader 1 slot.val d.nextWrite name body) body false
          [.issued (spaceFor body.length)] [.profileLive slot ⟨d.nextWrite, name, body.length, 16384 - d.free⟩] ∧
        saveSteps d bank slot name body =
          steps ++
            match d.slots.get slot with
            | some old => [⟨.program bank old.offset [0x7F#8], false, [.madeDead (spaceFor old.bodyLength)]⟩]
            | none => [] := by
  rw [← recordHeader_eq]
  refine ⟨_, recordSteps_spec _ _ _ _ _ _ _, ?_⟩
  rw [saveSteps]
  cases d.slots.get slot <;> rfl

/-- A boot selection's body: its slot, or 0xFF for NONE, and its auto-run choice (R103, R175). -/
theorem bootBody_spelled {sel : Option (Fin 8)} {auto : Bool} {body : List Byte}
    (spelled : body =
      [match sel with | some i => BitVec.ofNat 8 i.val | none => 0xFF#8, if auto = true then 1#8 else 0#8]) :
    body = bootBody sel auto := by
  rw [spelled]
  cases sel <;> cases auto <;> rfl

theorem bootSteps_spec (d : Directory) (bank : Bank) (sel : Option (Fin 8)) (auto : Bool) :
    ∃ steps,
      writesRecord steps bank (16384 - d.free) (startedHeader 2 255 d.nextWrite [] (bootBody sel auto))
          (bootBody sel auto) false [.issued 48] [.bootLive ⟨d.nextWrite, sel, auto, 16384 - d.free⟩] ∧
        bootSteps d bank sel auto =
          steps ++
            match d.boot with
            | some old => [⟨.program bank old.offset [0x7F#8], false, [.madeDead 48]⟩]
            | none => [] := by
  rw [← recordHeader_eq]
  refine ⟨_, recordSteps_spec _ _ _ _ _ _ _, ?_⟩
  rw [bootSteps]
  cases d.boot <;> rfl

/-! ## Compactions and formats (R109, R112) -/

/-- The copies of the records in force, one behind another, each at its place (R109 step 3). -/
theorem copyAll_spec (m : Media) (src dst : Bank) (start : Nat) (rs : List InForce) :
    ∃ copies : List (List MediaStep), copies.length = rs.length ∧
      (∀ k (h : k < rs.length) (h' : k < copies.length),
        copies[k] = copySteps m src dst rs[k] (start + ((rs.take k).map fun r => spaceFor r.bodyLength).sum)) ∧
      copyAll m src dst start rs = copies.flatten := by
  induction rs generalizing start with
  | nil => exact ⟨[], rfl, fun k h => absurd h (Nat.not_lt_zero k), rfl⟩
  | cons r rs ih =>
    obtain ⟨copies, length, each, all⟩ := ih (start + spaceFor r.bodyLength)
    refine ⟨copySteps m src dst r start :: copies, congrArg (· + 1) length, fun k h h' => ?_,
      congrArg (copySteps m src dst r start ++ ·) all⟩
    cases k with
    | zero => rfl
    | succ k =>
      have shifted := each k (Nat.lt_of_succ_lt_succ h) (Nat.lt_of_succ_lt_succ h')
      rwa [Nat.add_assoc] at shifted

/-- The copy of a record writes it at its new place (R109 step 3). -/
theorem copySteps_spec (m : Media) (src dst : Bank) (r : InForce) (offset : Nat) :
    writesRecord (copySteps m src dst r offset) dst offset (0xFE#8 :: m.slice src (r.offset + 1) 26)
      (m.slice src (r.offset + 32) r.bodyLength) true [] [] :=
  recordSteps_spec _ _ _ _ _ _ _

theorem Media.wornOut_eq (m : Media) (bank : Bank) : m.wornOut bank = decide (50000 ≤ m.takenCount bank) := rfl

/-- A compaction's steps in order, and whether wear blocks its last erase (R109, R114). -/
theorem compactionSteps_eq (m : Media) (d : Directory) (cur : Bank) :
    compactionSteps m d cur =
      ((if m.bankState cur.other = some .fresh then [] else
          refreshSteps cur.other (m.takenCount cur.other + 1) true []) ++
        ⟨.program cur.other 0 (0xFC#8 :: be4 (fromBe (m.slice cur 1 4) + 1)), true, []⟩ ::
          copyAll m cur cur.other 32 d.inForce ++
        [⟨.program cur.other 0 [0xF8#8], true, [.becameCurrent cur.other]⟩, ⟨.program cur 0 [0xF0#8], true, []⟩] ++
        (if m.wornOut cur = true then [] else refreshSteps cur (m.takenCount cur + 1) true []), m.wornOut cur) := by
  have prepare : (if m.mustErase cur.other = true then refreshSteps cur.other (m.takenCount cur.other + 1) true [] else []) =
      if m.bankState cur.other = some .fresh then [] else
        refreshSteps cur.other (m.takenCount cur.other + 1) true [] := by
    simp only [Media.mustErase, decide_eq_true_eq, ite_not]
  rw [← prepare]
  simp only [compactionSteps, List.append_assoc, List.cons_append, List.nil_append]
  rfl

/-- A compaction prepares the other bank, copies the records in force into it, makes it CURRENT and clears the old one
(R109). -/
theorem compactionSteps_spec (m : Media) (d : Directory) (cur : Bank) :
    ∃ (rs : List InForce) (copies : List (List MediaStep)), d.ordered rs ∧ copies.length = rs.length ∧
      (∀ k (h : k < rs.length) (h' : k < copies.length),
        writesRecord copies[k] cur.other (copyAt rs k) (0xFE#8 :: m.slice cur (rs[k].offset + 1) 26)
          (m.slice cur (rs[k].offset + 32) rs[k].bodyLength) true [] []) ∧
      compactionSteps m d cur =
        ((if m.bankState cur.other = some .fresh then [] else
            refreshSteps cur.other (m.takenCount cur.other + 1) true []) ++
          ⟨.program cur.other 0 (0xFC#8 :: be4 (fromBe (m.slice cur 1 4) + 1)), true, []⟩ :: copies.flatten ++
          [⟨.program cur.other 0 [0xF8#8], true, [.becameCurrent cur.other]⟩, ⟨.program cur 0 [0xF0#8], true, []⟩] ++
          (if m.wornOut cur = true then [] else refreshSteps cur (m.takenCount cur + 1) true []), m.wornOut cur) := by
  obtain ⟨copies, length, each, all⟩ := copyAll_spec m cur cur.other 32 d.inForce
  refine ⟨d.inForce, copies, d.inForce_ordered, length, fun k h h' => ?_, ?_⟩
  · rw [each k h h']
    exact copySteps_spec _ _ _ _ _
  · rw [← all]
    exact compactionSteps_eq m d cur

/-! ## The directory (R105) -/

/-- Where a record in force stands in the new bank of a compaction, if no earlier one has its offset (R105, R109). -/
theorem Directory.moved_eq (d : Directory) {k : Nat} (h : k < d.inForce.length)
    (first : ∀ j (h' : j < d.inForce.length), j < k → d.inForce[j].offset ≠ d.inForce[k].offset) {offset : Nat}
    (here : offset = d.inForce[k].offset) :
    ((packFrom Config.headerSize d.inForce).lookup offset).getD offset = copyAt d.inForce k := by
  rw [here, packFrom_lookup d.inForce Config.headerSize k h first]
  rfl

/-- The directory once a compaction has made its new bank CURRENT (R105). -/
theorem Directory.repacked_spec (d : Directory) (new : Bank) : ∃ rs, d.ordered rs ∧
    (d.repacked new).bank = some new ∧ (d.repacked new).dead = 0 ∧ (d.repacked new).nextWrite = d.nextWrite ∧
    (d.repacked new).free = 16352 - (rs.map fun r => spaceFor r.bodyLength).sum ∧
    (∀ i, d.slots.get i = none → (d.repacked new).slots.get i = none) ∧
    (d.boot = none → (d.repacked new).boot = none) ∧
    (∀ k (h : k < rs.length), (∀ j (h' : j < rs.length), j < k → rs[j].offset ≠ rs[k].offset) →
      (∀ i e, d.slots.get i = some e → e.offset = rs[k].offset →
        (d.repacked new).slots.get i = some { e with offset := copyAt rs k }) ∧
      ∀ b, d.boot = some b → b.offset = rs[k].offset →
        (d.repacked new).boot = some { b with offset := copyAt rs k }) := by
  refine ⟨d.inForce, d.inForce_ordered, rfl, rfl, rfl, rfl, fun i empty => ?_, fun none => ?_, fun k h first =>
    ⟨fun i e found here => ?_, fun b selected here => ?_⟩⟩
  · simp only [Directory.repacked, Row.get_mapIdx, empty, Option.map_none]
  · simp only [Directory.repacked, none, Option.map_none]
  · simp only [Directory.repacked, Row.get_mapIdx, found, Option.map_some, d.moved_eq h first here]
  · simp only [Directory.repacked, selected, Option.map_some, d.moved_eq h first here]

/-- Settles O21: the steps of each operation, the directory a compaction leaves, and the effects one by one. -/
theorem storeOperationsWriteInOrder : Obligations.StoreOperationsWriteInOrder := by
  refine ⟨recordHeader_eq, saveSteps_spec, fun d bank sel auto body spelled => ?_, fun m d cur => ?_,
    fun m onErase onDone => rfl, Directory.repacked_spec, fun st => ?_⟩
  · rw [bootBody_spelled spelled]
    exact bootSteps_spec d bank sel auto
  · obtain ⟨rs, copies, ordered, length, each, all⟩ := compactionSteps_spec m d cur
    exact ⟨rs, copies, ordered, length, each, congrArg Prod.snd all, congrArg Prod.fst all⟩
  · refine ⟨fun _ => rfl, fun _ _ => rfl, fun _ => rfl, fun _ => rfl, fun _ => rfl, fun bank => ?_, fun _ => ⟨rfl, rfl⟩,
      rfl, ?_⟩
    · cases under : st.job <;> simp only [StoreEffect.apply, under, Option.map_none, Option.map_some]
    · cases under : st.job <;> simp only [StoreEffect.apply, under, Option.map_none, Option.map_some]

end Sys2Proof.Machine
end

section
/-! The end of a media step, whole or cut off: what it leaves on the media, and what becomes of the work in progress (R100,
R105, R106, R113, R121, R123). -/

-- The text is long enough that elaborating its proofs in threads of their own would exceed the memory limit.
set_option Elab.async false

namespace Sys2Proof.Machine

/-! ## Programming and erasing, byte by byte (R100) -/

theorem Media.sorted_of_wf {m : Media} (wf : m.wf = true) : m.Pairwise fun x y => x.1 < y.1 := ((Media.wf_iff m).mp wf).1

/-- A byte after programming: in the row, ANDed with the data but for the bits undone; elsewhere as it was. -/
theorem Media.read_programmed {m : Media} (sorted : m.Pairwise fun x y => x.1 < y.1) (undone : List Host.Cell) (addr : Nat)
    (data : List Byte) (a : Nat) :
    (m.program undone addr data).read a =
      if addr ≤ a ∧ a < addr + data.length then m.read a &&& (data.getD (a - addr) 0xFF#8 ||| cellOr undone 0 a)
      else m.read a := by
  induction data generalizing m addr with
  | nil => rw [Media.program, if_neg (by simp)]
  | cons v vs ih =>
    rw [Media.program, ih (m.put_sorted sorted _ _), Media.read_put _ sorted, List.length_cons]
    rcases Nat.lt_trichotomy a addr with below | rfl | above
    · rw [if_neg (by omega), if_neg (by omega), if_neg (by omega)]
    · rw [if_neg (by omega), if_pos rfl, if_pos (by omega), Nat.sub_self, List.getD_cons_zero]
    · obtain ⟨k, rfl⟩ : ∃ k, a = addr + 1 + k := ⟨a - addr - 1, by omega⟩
      rw [if_neg (show ¬ addr + 1 + k = addr by omega), show addr + 1 + k - (addr + 1) = k by omega,
        show addr + 1 + k - addr = k + 1 by omega, List.getD_cons_succ]
      exact if_congr (by omega) rfl rfl

/-- A listed byte reads as listed. -/
theorem Media.read_listed {m : Media} (sorted : m.Pairwise fun x y => x.1 < y.1) {c : Host.Cell} (mem : c ∈ m) :
    m.read c.1 = c.2 := by
  induction m with
  | nil => cases mem
  | cons d m ih =>
    obtain ⟨first, rest⟩ := List.pairwise_cons.mp sorted
    rw [Media.read_cons d.1 d.2 m]
    rcases List.mem_cons.mp mem with rfl | mem
    · exact if_pos rfl
    · rw [if_neg (first c mem).ne', ih rest mem]

/-- Puts in turn of one byte for each of some cells. -/
def Media.puts (m : Media) (byte : Host.Cell → Byte) (cells : List Host.Cell) : Media :=
  cells.foldl (fun acc c => acc.put c.1 (byte c)) m

theorem Media.read_puts_absent {m : Media} (sorted : m.Pairwise fun x y => x.1 < y.1) (byte : Host.Cell → Byte)
    {cells : List Host.Cell} {a : Nat} (absent : ∀ c ∈ cells, c.1 ≠ a) : (m.puts byte cells).read a = m.read a := by
  induction cells generalizing m with
  | nil => rfl
  | cons c cells ih =>
    obtain ⟨other, rest⟩ := List.forall_mem_cons.mp absent
    exact (ih (m.put_sorted sorted _ _) rest).trans ((m.read_put sorted _ _ _).trans (if_neg other.symm))

theorem Media.read_puts_listed {m : Media} (sorted : m.Pairwise fun x y => x.1 < y.1) (byte : Host.Cell → Byte)
    {cells : List Host.Cell} (distinct : cells.Pairwise fun x y => x.1 < y.1) {c : Host.Cell} (mem : c ∈ cells) :
    (m.puts byte cells).read c.1 = byte c := by
  induction cells generalizing m with
  | nil => cases mem
  | cons d cells ih =>
    obtain ⟨first, rest⟩ := List.pairwise_cons.mp distinct
    have next : (m.put d.1 (byte d)).Pairwise fun x y => x.1 < y.1 := m.put_sorted sorted _ _
    rcases List.mem_cons.mp mem with rfl | mem
    · exact (Media.read_puts_absent next byte fun e he => (first e he).ne').trans
        ((m.read_put sorted _ _ _).trans (if_pos rfl))
    · exact ih next rest mem

theorem Bank.has_iff (bank : Bank) (a : Nat) : bank.has a = true ↔ bank.base ≤ a ∧ a < bank.base + 16384 := decide_eq_true_iff

/-- Bits of an erased byte that an erase leaves undone are ones. -/
theorem erased_or (b : Byte) : erased ||| b = erased := BitVec.allOnes_or

/-- A byte after an erase: in the bank, ones but for the bits undone; elsewhere as it was. -/
theorem Media.read_erase {m : Media} (sorted : m.Pairwise fun x y => x.1 < y.1) (undone : List Host.Cell) (bank : Bank)
    (a : Nat) :
    (m.erase undone bank).read a = if bank.has a = true then m.read a ||| ~~~ cellOr undone 0 a else m.read a := by
  have puts : m.erase undone bank =
      Media.puts (m.filter fun c => !bank.has c.1) (fun c => c.2 ||| ~~~ cellOr undone 0 c.1)
        (m.filter fun c => bank.has c.1) := rfl
  have outside : List.Pairwise (fun x y : Host.Cell => x.1 < y.1) (m.filter fun c => !bank.has c.1) := sorted.filter _
  have inside : List.Pairwise (fun x y : Host.Cell => x.1 < y.1) (m.filter fun c => bank.has c.1) := sorted.filter _
  rw [puts]
  by_cases listed : ∃ c ∈ m, c.1 = a
  · obtain ⟨c, mem, rfl⟩ := listed
    rw [Media.read_listed sorted mem]
    split
    · rename_i inBank
      exact Media.read_puts_listed outside _ inside (List.mem_filter.mpr ⟨mem, inBank⟩)
    · rename_i out
      have absent : ∀ d ∈ m.filter fun d => bank.has d.1, d.1 ≠ c.1 :=
        fun d hd same => out (same ▸ (List.mem_filter.mp hd).2)
      rw [Media.read_puts_absent outside _ absent]
      exact Media.read_listed outside (List.mem_filter.mpr ⟨mem, by simp [out]⟩)
  · have absent : ∀ c ∈ m, c.1 ≠ a := fun c mem same => listed ⟨c, mem, same⟩
    rw [Media.read_puts_absent outside _ fun c mem => absent c (List.mem_filter.mp mem).1,
      Media.read_absent m a absent, erased_or, ite_self]
    exact Media.read_absent _ a fun c mem => absent c (List.mem_filter.mp mem).1

/-- A byte after a whole program step (R100). -/
theorem Media.read_program_whole {m : Media} (sorted : m.Pairwise fun x y => x.1 < y.1) (addr : Nat) (data : List Byte)
    (a : Nat) :
    (m.program [] addr data).read a =
      if addr ≤ a ∧ a < addr + data.length then m.read a &&& data.getD (a - addr) 0xFF#8 else m.read a := by
  rw [Media.read_programmed sorted]
  simp [cellOr]

/-- A byte after a whole erase (R100). -/
theorem Media.read_erase_whole {m : Media} (sorted : m.Pairwise fun x y => x.1 < y.1) (bank : Bank) (a : Nat) :
    (m.erase [] bank).read a = if bank.base ≤ a ∧ a < bank.base + 16384 then 0xFF#8 else m.read a := by
  have ones : m.read a ||| ~~~ cellOr [] 0 a = 0xFF#8 := by
    rw [show cellOr [] 0 a = 0#8 from rfl, BitVec.not_zero, BitVec.or_allOnes]
    rfl
  rw [Media.read_erase sorted, ones]
  exact if_congr (bank.has_iff a) rfl rfl

/-- Media that read the same over a range agree there byte by byte. -/
theorem Media.read_of_readMany {m m' : Media} {lo n : Nat} (same : m.readMany lo n = m'.readMany lo n) {a : Nat}
    (low : lo ≤ a) (high : a < lo + n) : m.read a = m'.read a := by
  induction n generalizing lo with
  | zero => omega
  | succ n ih =>
    obtain ⟨here, rest⟩ := List.cons.inj same
    rcases Nat.eq_or_lt_of_le low with rfl | above
    · exact here
    · exact ih rest above (by omega)

/-! ## The end of the step under way (R100, R105, R106, R113, R121) -/

/-- A state whose media step has ended: other media, another store, other notices. -/
def State.stepLeft (s : State) (media : Media) (store : Store) (told : Notices) : State :=
  { s with media := media, store := store, notices := told }

/-- Another state has the blocks of this one that no media step touches. -/
def State.sameBlocks (s t : State) : Prop :=
  LinkKept s t ∧ t.seq = s.seq ∧ t.plans = s.plans ∧ t.timeline = s.timeline ∧ t.channels = s.channels ∧
    t.filters = s.filters ∧ t.captures = s.captures ∧ t.monitor = s.monitor ∧ t.startup = s.startup

/-- Once the arbiter has chosen, the step's media and store stand as they were left, and the notices but for marks. -/
theorem State.stepLeft_arbitrate (s : State) (media : Media) (store : Store) (told : Notices) :
    s.sameBlocks (s.stepLeft media store told).arbitrate ∧ (s.stepLeft media store told).arbitrate.media = media ∧
      (s.stepLeft media store told).arbitrate.store = store ∧
      (s.stepLeft media store told).arbitrate.notices.like told := by
  have kept := (s.stepLeft media store told).arbitrate_keeps
  obtain ⟨seq, plans, timeline, channels, filters, captures, monitor, media, store, startup, -⟩ := kept
  exact ⟨⟨(State.arbitrate_agrees _).link, seq, plans, timeline, channels, filters, captures, monitor, startup⟩, media,
    store, State.arbitrate_notices _⟩

/-- The store once a step has verified: its effects have taken place, and the next step is under way (R105). -/
def Store.advanced (st : Store) (job : Job) (step : MediaStep) (rest : List MediaStep) : Store :=
  step.effects.foldl StoreEffect.apply { st with job := some { job with steps := rest } }

/-- A verified step with another behind it, or one of the scan's, has its effects and no more (R105). -/
theorem State.stepVerified_goesOn {s : State} {job : Job} {rest : List MediaStep}
    (goesOn : rest ≠ [] ∨ ∀ o, job.kind ≠ .op o) (media : Media) (step : MediaStep) :
    State.stepVerified { s with media := media } job step rest =
      s.stepLeft media (s.store.advanced job step rest) s.notices := by
  unfold State.stepVerified
  dsimp only
  split
  · rename_i o kind
    exact absurd kind (goesOn.resolve_left (absurd rfl) o)
  · rfl

/-- The last step of an operation ends it (R106). -/
theorem State.stepVerified_last {s : State} {job : Job} {op : StoreOp} (kind : job.kind = .op op) (media : Media)
    (step : MediaStep) :
    State.stepVerified { s with media := media } job step [] =
      s.stepLeft media
        { s.store.advanced job step [] with status := if job.worn = true then .readOnly else .ready, job := none }
        (s.notices.raise
          (.report (.storeDone op .done (((s.store.advanced job step []).job.map Job.compacted).getD false)))) := by
  obtain ⟨_, _, _, _, _, _⟩ := job
  obtain rfl : _ = JobKind.op op := kind
  simp only [State.stepVerified, State.endOp, reduceCtorEq, false_or]
  rfl

/-- A step that fails ends its operation, and the store takes no more writes (R113). -/
theorem State.stepFailed_op {s : State} {job : Job} {op : StoreOp} (kind : job.kind = .op op) (media : Media) :
    State.stepFailed { s with media := media } job =
      s.stepLeft media s.store.failed (s.notices.raise (.report (.storeDone op .verifyFailed job.compacted))) := by
  rw [State.stepFailed, kind]
  rfl

/-- A step of the scan that fails is the scan's last (R121). -/
theorem State.stepFailed_scan {s : State} {job : Job} (scans : ∀ o, job.kind ≠ .op o) (media : Media) :
    State.stepFailed { s with media := media } job =
      s.stepLeft media { s.store with job := some { job with steps := [], failed := true } } s.notices := by
  unfold State.stepFailed
  split
  · rename_i o kind
    exact absurd kind (scans o)
  · rfl

/-- What a verified step leaves: the next step under way, or behind an operation's last one its end (R105, R106). -/
theorem State.stepVerified_cases {s : State} (job : Job) (media : Media) (step : MediaStep) (rest : List MediaStep) :
    ∃ store told, State.stepVerified { s with media := media } job step rest = s.stepLeft media store told ∧
      ((rest ≠ [] ∨ ∀ o, job.kind ≠ .op o) → store = s.store.advanced job step rest ∧ told = s.notices) ∧
      ∀ o, rest = [] → job.kind = .op o →
        store =
            { s.store.advanced job step rest with
              status := if job.worn = true then .readOnly else .ready, job := none } ∧
          told =
            s.notices.raise
              (.report (.storeDone o .done (((s.store.advanced job step rest).job.map Job.compacted).getD false))) := by
  by_cases last : rest = [] ∧ ∃ o, job.kind = .op o
  · obtain ⟨rfl, o, kind⟩ := last
    refine ⟨_, _, State.stepVerified_last kind media step, fun goesOn => ?_, fun o' _ kind' => ?_⟩
    · exact absurd kind (goesOn.resolve_left (absurd rfl) o)
    · obtain rfl : o = o' := JobKind.op.inj (kind.symm.trans kind')
      exact ⟨rfl, rfl⟩
  · have goesOn : rest ≠ [] ∨ ∀ o, job.kind ≠ .op o := by
      by_cases more : rest = []
      · exact .inr fun o kind => last ⟨more, o, kind⟩
      · exact .inl more
    exact ⟨_, _, State.stepVerified_goesOn goesOn media step, fun _ => ⟨rfl, rfl⟩,
      fun o none kind => absurd ⟨none, o, kind⟩ last⟩

/-- What a failed step leaves, an operation's and the scan's (R113, R121). -/
theorem State.stepFailed_cases {s : State} (job : Job) (media : Media) :
    ∃ store told, State.stepFailed { s with media := media } job = s.stepLeft media store told ∧
      (∀ o, job.kind = .op o →
        store = s.store.failed ∧ told = s.notices.raise (.report (.storeDone o .verifyFailed job.compacted))) ∧
      ((∀ o, job.kind ≠ .op o) →
        store = { s.store with job := some { job with steps := [], failed := true } } ∧ told = s.notices) := by
  by_cases writes : ∃ o, job.kind = .op o
  · obtain ⟨o, kind⟩ := writes
    refine ⟨_, _, State.stepFailed_op kind media, fun o' kind' => ?_, fun scans => absurd kind (scans o)⟩
    obtain rfl : o = o' := JobKind.op.inj (kind.symm.trans kind')
    exact ⟨rfl, rfl⟩
  · have scans : ∀ o, job.kind ≠ .op o := fun o kind => writes ⟨o, kind⟩
    exact ⟨_, _, State.stepFailed_scan scans media, fun o kind => absurd kind (scans o), fun _ => ⟨rfl, rfl⟩⟩

/-! ## PROGRAM_STEP_END and ERASE_END (R100) -/

section
variable {s : State} {job : Job} {step : MediaStep} {rest : List MediaStep} {bank : Bank} {offset : Nat} {data : List Byte}

theorem exec_programStepEnd (live : s.live = true) (under : s.store.job = some job) (steps : job.steps = step :: rest)
    (act : step.act = .program bank offset data) (faults : List Host.Cell) :
    exec (.programStepEnd faults) s =
      if 16384 < offset + data.length then .fault .mediaOutside
      else .next (s.programEnds faults job step rest bank offset data).arbitrate := by
  show execProgramStepEnd faults s = _
  simp only [execProgramStepEnd, live, under, steps, act, Bool.true_eq_false, if_false]
  rfl

theorem exec_eraseEnd (live : s.live = true) (under : s.store.job = some job) (steps : job.steps = step :: rest)
    (act : step.act = .erase bank) (faults : List Host.Cell) :
    exec (.eraseEnd faults) s = .next (s.eraseEnds faults job step rest bank).arbitrate := by
  show execEraseEnd faults s = _
  simp only [execEraseEnd, live, under, steps, act, if_true]

end

/-- A program step without faults verifies (R100). -/
theorem State.programEnds_whole (s : State) (job : Job) (step : MediaStep) (rest : List MediaStep) (bank : Bank)
    (offset : Nat) (data : List Byte) :
    s.programEnds [] job step rest bank offset data =
      State.stepVerified { s with media := s.media.program [] (bank.base + offset) data } job step rest := if_pos rfl

/-- An erase without faults verifies (R100). -/
theorem State.eraseEnds_whole (s : State) (job : Job) (step : MediaStep) (rest : List MediaStep) (bank : Bank) :
    s.eraseEnds [] job step rest bank = State.stepVerified { s with media := s.media.erase [] bank } job step rest :=
  if_pos rfl

/-- The media once the step under way has ended without faults. -/
def MediaAct.result (m : Media) : MediaAct → Media
  | .program bank offset data => m.program [] (bank.base + offset) data
  | .erase bank => m.erase [] bank

/-- The end of a step without faults (R100): its media, and the step verified. -/
theorem exec_stepEnd {s : State} {job : Job} {step : MediaStep} {rest : List MediaStep} {c : Instr} (live : s.live = true)
    (under : s.store.job = some job) (steps : job.steps = step :: rest)
    (ends : (∃ bank offset data, step.act = .program bank offset data ∧ offset + data.length ≤ 16384 ∧
        c = .programStepEnd []) ∨ ∃ bank, step.act = .erase bank ∧ c = .eraseEnd []) :
    exec c s =
      .next (State.stepVerified { s with media := step.act.result s.media } job step rest).arbitrate := by
  obtain ⟨bank, offset, data, act, fits, rfl⟩ | ⟨bank, act, rfl⟩ := ends
  · rw [exec_programStepEnd live under steps act, if_neg (Nat.not_lt.mpr fits), State.programEnds_whole, act]
    rfl
  · rw [exec_eraseEnd live under steps act, State.eraseEnds_whole, act]
    rfl

/-- Settles O46: the step's media by its act, and what becomes of the work behind a step that has verified. -/
theorem mediaStepsEndAndAreVerified : Obligations.MediaStepsEndAndAreVerified := by
  intro s job step rest live ok under steps started after c ends
  have sorted := Media.sorted_of_wf ok
  obtain ⟨store, told, verified, goesOn, last⟩ := State.stepVerified_cases (s := s) job (step.act.result s.media) step rest
  obtain ⟨⟨link, seq, plans, timeline, channels, filters, captures, monitor, startup⟩, media, left, notices⟩ :=
    s.stepLeft_arbitrate (step.act.result s.media) store told
  refine ⟨_, (exec_stepEnd live under steps ends).trans (by rw [verified]), link, seq, plans, timeline, channels, filters,
    captures, monitor, startup, fun bank offset data act a => ?_, fun bank act a => ?_, fun more => ?_,
    fun o none kind => ?_⟩
  · rw [media, act, MediaAct.result, Media.read_program_whole sorted]
  · rw [media, act, MediaAct.result, Media.read_erase_whole sorted]
  · obtain ⟨rfl, rfl⟩ := goesOn more
    exact ⟨left, notices⟩
  · obtain ⟨rfl, rfl⟩ := last o none kind
    exact ⟨left, notices⟩

/-! ## Steps that read back wrong (R100, R113, R121) -/

/-- One forced cell of the range reads as forced. -/
theorem Media.force_one {m : Media} {lo n : Nat} {c : Host.Cell} (range : lo ≤ c.1 ∧ c.1 < lo + n) :
    m.force lo n [c] = m.put c.1 c.2 := if_pos range

/-- A program step in whose row one cell has fewer ones than programmed fails (R100, R113). -/
theorem State.programEnds_fault {s : State} (ok : s.mediaOk) {bank : Bank} {offset : Nat} {data : List Byte}
    (fits : offset + data.length ≤ 16384) {a : Nat} {v : Byte}
    (range : bank.base + offset ≤ a ∧ a < bank.base + offset + data.length)
    (wrong : s.media.read a &&& v ≠ s.media.read a &&& data.getD (a - (bank.base + offset)) 0xFF#8) (job : Job)
    (step : MediaStep) (rest : List MediaStep) :
    ∃ media, s.programEnds [(a, v)] job step rest bank offset data = State.stepFailed { s with media := media } job ∧
      media.read a = s.media.read a &&& v := by
  have base := bank.base_le
  have inBanks : bank.base + offset + data.length ≤ 2 * Config.bankSize := by simp only [Config.bankSize] at *; omega
  have sorted := Media.sorted_of_wf (Media.program_wf s.media ok [] _ data inBanks)
  have forced : (s.media.program [] (bank.base + offset) data).force (bank.base + offset) data.length
      (s.media.onlyClears [(a, v)]) = (s.media.program [] (bank.base + offset) data).put a (s.media.read a &&& v) :=
    Media.force_one range
  have left := (Media.read_put _ sorted a (s.media.read a &&& v) a).trans (if_pos rfl)
  have meant := Media.read_program_whole (Media.sorted_of_wf ok) (bank.base + offset) data a
  rw [if_pos range] at meant
  refine ⟨_, ?_, left⟩
  unfold State.programEnds
  dsimp only
  rw [forced]
  refine if_neg fun same => wrong ?_
  rw [← left, Media.read_of_readMany same range.1 range.2, meant]

/-- An erase that leaves one cell of its bank short of ones fails (R100, R113). -/
theorem State.eraseEnds_fault {s : State} (ok : s.mediaOk) {bank : Bank} {a : Nat} {v : Byte}
    (range : bank.base ≤ a ∧ a < bank.base + 16384) (wrong : v ≠ 0xFF#8) (job : Job) (step : MediaStep)
    (rest : List MediaStep) :
    ∃ media, s.eraseEnds [(a, v)] job step rest bank = State.stepFailed { s with media := media } job ∧
      media.read a = v := by
  have sorted := Media.sorted_of_wf (Media.erase_wf s.media ok [] bank)
  have forced : (s.media.erase [] bank).force bank.base Config.bankSize [(a, v)] = (s.media.erase [] bank).put a v :=
    Media.force_one range
  have left := (Media.read_put _ sorted a v a).trans (if_pos rfl)
  have meant := Media.read_erase_whole (Media.sorted_of_wf ok) bank a
  rw [if_pos range] at meant
  refine ⟨_, ?_, left⟩
  unfold State.eraseEnds
  dsimp only
  rw [forced]
  refine if_neg fun same => wrong ?_
  rw [← left, same, meant]

/-- The end of a step that leaves one byte wrong (R113, R121): the byte stands wrong, and the step has failed. -/
theorem exec_stepFails {s : State} {job : Job} {step : MediaStep} {rest : List MediaStep} {c : Instr} {a : Nat}
    {v left : Byte} (live : s.live = true) (ok : s.mediaOk) (under : s.store.job = some job)
    (steps : job.steps = step :: rest)
    (fails : (∃ (bank : Bank) (offset : Nat) (data : List Byte), step.act = .program bank offset data ∧
        offset + data.length ≤ 16384 ∧ bank.base + offset ≤ a ∧ a < bank.base + offset + data.length ∧
        left = s.media.read a &&& v ∧ left ≠ s.media.read a &&& data.getD (a - (bank.base + offset)) 0xFF#8 ∧
        c = .programStepEnd [(a, v)]) ∨
      (∃ bank : Bank, step.act = .erase bank ∧ bank.base ≤ a ∧ a < bank.base + 16384 ∧ left = v ∧ v ≠ 0xFF#8 ∧
        c = .eraseEnd [(a, v)])) :
    ∃ media : Media, exec c s = .next (State.stepFailed { s with media := media } job).arbitrate ∧ media.read a = left := by
  obtain ⟨bank, offset, data, act, fits, low, high, rfl, wrong, rfl⟩ | ⟨bank, act, low, high, rfl, wrong, rfl⟩ := fails
  · obtain ⟨media, failed, stands⟩ := State.programEnds_fault ok fits ⟨low, high⟩ wrong job step rest
    exact ⟨media, by rw [exec_programStepEnd live under steps act, if_neg (Nat.not_lt.mpr fits), failed], stands⟩
  · obtain ⟨media, failed, stands⟩ := State.eraseEnds_fault ok ⟨low, high⟩ wrong job step rest
    exact ⟨media, by rw [exec_eraseEnd live under steps act, failed], stands⟩

/-- Settles O47: what becomes of the work behind a step that failed, no zero bit raised, and the fault past the bank. -/
theorem verifyFailureEndsTheWork : Obligations.VerifyFailureEndsTheWork := by
  intro s job step rest live ok under steps
  refine ⟨fun c a v left fails => ?_, fun faults bank offset data act fits => ?_,
    fun faults bank offset data act past => ?_⟩
  · obtain ⟨media, ends, stands⟩ := exec_stepFails live ok under steps fails
    obtain ⟨store, told, failed, writes, scans⟩ := State.stepFailed_cases (s := s) job media
    obtain ⟨⟨link, seq, plans, timeline, channels, filters, captures, monitor, startup⟩, media', left', notices⟩ :=
      s.stepLeft_arbitrate media store told
    refine ⟨_, ends.trans (by rw [failed]), by rw [media', stands], link, seq, plans, timeline, channels, filters, captures,
      monitor, startup, fun o kind => ?_, fun kind => ?_⟩
    · obtain ⟨rfl, rfl⟩ := writes o kind
      exact ⟨left', notices⟩
    · obtain ⟨rfl, rfl⟩ := scans kind
      exact ⟨left', notices⟩
  · have base := bank.base_le
    have inBanks : bank.base + offset + data.length ≤ 2 * Config.bankSize := by simp only [Config.bankSize] at *; omega
    have ends := exec_programStepEnd live under steps act faults
    rw [if_neg (Nat.not_lt.mpr fits)] at ends
    refine ⟨_, ends, fun a => ?_⟩
    obtain ⟨media, less, same⟩ := s.programEnds_media ok faults job step rest bank offset data inBanks a
    simp only [State.arbitrate_keeps, media]
    exact ⟨less, same⟩
  · rw [exec_programStepEnd live under steps act, if_pos past]

/-! ## Resets (R100, R112, R123) -/

/-- A program step cut off leaves its row as programmed but for the bits that keep their old value (R100). -/
theorem State.tornMedia_program {s : State} {job : Job} {step : MediaStep} {rest : List MediaStep} {bank : Bank}
    {offset : Nat} {data : List Byte} (under : s.store.job = some job) (steps : job.steps = step :: rest)
    (act : step.act = .program bank offset data) (fits : offset + data.length ≤ 16384) (torn : List Host.Cell) :
    s.tornMedia torn = s.media.program torn (bank.base + offset) data := by
  simp only [State.tornMedia, under, steps, act]
  exact if_pos fits

theorem State.tornMedia_erase {s : State} {job : Job} {step : MediaStep} {rest : List MediaStep} {bank : Bank}
    (under : s.store.job = some job) (steps : job.steps = step :: rest) (act : step.act = .erase bank)
    (torn : List Host.Cell) : s.tornMedia torn = s.media.eraseCut torn bank := by
  simp only [State.tornMedia, under, steps, act]

/-- With no step under way a reset leaves the media as they are (R123). -/
theorem State.tornMedia_idle {s : State} (idle : ∀ j, s.store.job = some j → j.steps = []) (torn : List Host.Cell) :
    s.tornMedia torn = s.media := by
  cases under : s.store.job with
  | none => simp only [State.tornMedia, under]
  | some j => simp only [State.tornMedia, under, idle j under]

theorem Media.erasedByScan_iff (m : Media) (bank : Bank) :
    m.erasedByScan bank = true ↔
      m.bankState bank = none ∨ m.bankState bank = some .opening ∨ m.bankState bank = some .retired := by
  rw [Media.erasedByScan]
  rcases m.bankState bank with _ | _ | _ | _ | _ | _ <;> simp

/-- An erase cut off: not begun, partly made with a header that the scan answers by erasing it, or made (R100, R112; entry 9). -/
theorem Media.eraseCut_spec {m : Media} (sorted : m.Pairwise fun x y => x.1 < y.1) (torn : List Host.Cell) (bank : Bank) :
    let left := m.eraseCut torn bank
    (∀ a, ¬ (bank.base ≤ a ∧ a < bank.base + 16384) → left.read a = m.read a) ∧
      (left = m ∨
        (∀ a, bank.base ≤ a → a < bank.base + 16384 → left.read a = m.read a ||| ~~~ cellOr torn 0 a) ∧
            (left.bankState bank = none ∨ left.bankState bank = some .opening ∨ left.bankState bank = some .retired) ∨
          ∀ a, bank.base ≤ a → a < bank.base + 16384 → left.read a = 0xFF#8) := by
  have outside : ∀ undone a, ¬ (bank.base ≤ a ∧ a < bank.base + 16384) → (m.erase undone bank).read a = m.read a :=
    fun undone a out => (m.read_erase sorted undone bank a).trans (if_neg (mt (bank.has_iff a).mp out))
  obtain ⟨cut, found⟩ | made := m.eraseCut_cases torn bank
  · rw [cut]
    refine ⟨outside torn, found.imp_right fun found => .inl ⟨fun a low high => ?_, (Media.erasedByScan_iff _ _).mp found⟩⟩
    exact (m.read_erase sorted torn bank a).trans (if_pos ((bank.has_iff a).mpr ⟨low, high⟩))
  · rw [made]
    exact ⟨outside [], .inr (.inr fun a low high => (Media.read_erase_whole sorted bank a).trans (if_pos ⟨low, high⟩))⟩

/-- Settles O51: the reset state by cause, and the media by the step that was cut off. -/
theorem resetsKeepTheMediaAlone : Obligations.ResetsKeepTheMediaAlone := by
  refine ⟨fun s torn => ⟨rfl, fun powered => congrArg Host.Outcome.next (if_pos powered),
      fun powered => congrArg Host.Outcome.next (if_pos powered), fun off => ?_⟩,
    fun s torn idle => State.tornMedia_idle idle torn, fun s torn j step rest ok under steps => ?_⟩
  · have dead : ¬ s.startup.powered = true := by simp [off]
    exact ⟨congrArg Host.Outcome.next (if_neg dead), congrArg Host.Outcome.next (if_neg dead)⟩
  · have sorted := Media.sorted_of_wf ok
    refine ⟨s.tornMedia_wf ok torn, fun bank offset data act fits a => ?_, fun bank act => ?_⟩
    · rw [State.tornMedia_program under steps act fits]
      exact Media.read_programmed sorted torn _ data a
    · rw [State.tornMedia_erase under steps act]
      exact Media.eraseCut_spec sorted torn bank

end Sys2Proof.Machine
end

section
/-! The end of a reset and the start-up scan: the state of a bank, the bank the scan uses, the walk over its records, the
markings, and the directory (R101, R112, R119 to R121, R126, R127, R134). -/

-- The text is long enough that elaborating its proofs in threads of their own would exceed the memory limit.
set_option Elab.async false

namespace Sys2Proof.Machine

/-! ## The state of a bank (R101, R175) -/

theorem Media.bankState_blank {m : Media} {bank : Bank} (blank : ∀ b ∈ m.slice bank 0 32, b = 0xFF#8) :
    m.bankState bank = some .blank := if_pos ((allErased_iff _).mpr blank)

theorem Media.bankState_header {m : Media} {bank : Bank} (header : ¬ ∀ b ∈ m.slice bank 0 32, b = 0xFF#8) :
    m.bankState bank =
      if (crc16 (m.slice bank 5 4)).toNat = fromBe (m.slice bank 9 2) then some (bankStateOf (m.read bank.base))
      else none := if_neg (mt (allErased_iff _).mp header)

/-- The bank state by the lowest bit of the state byte that is one (R175). -/
theorem bankStateOf_spec (b : Byte) :
    (b.getLsbD 0 = true → bankStateOf b = .blank) ∧
    (b.getLsbD 0 = false → b.getLsbD 1 = true → bankStateOf b = .fresh) ∧
    (b.getLsbD 0 = false → b.getLsbD 1 = false → b.getLsbD 2 = true → bankStateOf b = .opening) ∧
    (b.getLsbD 0 = false → b.getLsbD 1 = false → b.getLsbD 2 = false →
      (b.getLsbD 3 = true → bankStateOf b = .current) ∧ (b.getLsbD 3 = false → bankStateOf b = .retired)) := by
  unfold bankStateOf lowZeros
  refine ⟨fun h0 => ?_, fun h0 h1 => ?_, fun h0 h1 h2 => ?_, fun h0 h1 h2 => ⟨fun h3 => ?_, fun h3 => ?_⟩⟩ <;>
    simp only [*, Bool.false_eq_true, ↓reduceIte]

/-- A bank's header is readable and not BLANK: its erase count counts (R101; entry 18). -/
def Media.reads (m : Media) (bank : Bank) : Prop := m.bankState bank ≠ none ∧ m.bankState bank ≠ some .blank

theorem Media.readCount_of_reads {m : Media} {bank : Bank} (reads : m.reads bank) :
    m.readCount bank = some (fromBe (m.slice bank 5 4)) := by
  obtain ⟨readable, written⟩ := reads
  unfold Media.readCount
  split
  · rename_i none
    exact absurd none readable
  · rename_i blank
    exact absurd blank written
  · rfl

theorem Media.readCount_of_not_reads {m : Media} {bank : Bank} (unread : ¬ m.reads bank) : m.readCount bank = none := by
  unfold Media.readCount
  split
  · rfl
  · rfl
  · rename_i state notBlank found
    exact absurd ⟨by simp [found], fun blank => notBlank (Option.some.inj (found.symm.trans blank))⟩ unread

/-- The erase count taken for a bank: its own, else the other bank's, else 0 (R101). -/
theorem Media.takenCount_spec (m : Media) (bank : Bank) :
    (m.reads bank → m.takenCount bank = fromBe (m.slice bank 5 4)) ∧
    (¬ m.reads bank → m.reads bank.other → m.takenCount bank = fromBe (m.slice bank.other 5 4)) ∧
    (¬ m.reads bank → ¬ m.reads bank.other → m.takenCount bank = 0) := by
  unfold Media.takenCount
  refine ⟨fun own => ?_, fun unread other => ?_, fun unread neither => ?_⟩
  · rw [Media.readCount_of_reads own, Option.getD_some]
  · rw [Media.readCount_of_not_reads unread, Media.readCount_of_reads other, Option.getD_none, Option.getD_some]
  · rw [Media.readCount_of_not_reads unread, Media.readCount_of_not_reads neither, Option.getD_none, Option.getD_none]

/-! ## The bank the scan uses, and the other one (R119) -/

theorem Media.chosen_none {m : Media} (a : m.bankState .a ≠ some .current) (b : m.bankState .b ≠ some .current) :
    m.chosen = none := by
  simp [Media.chosen, Media.isCurrent, a, b]

/-- The one bank that is CURRENT, or of two the one with the higher sequence, A of equals (R119; entry 20). -/
theorem Media.chosen_current {m : Media} {bank : Bank} (current : m.bankState bank = some .current)
    (higher : m.bankState bank.other = some .current →
      fromBe (m.slice bank.other 1 4) < fromBe (m.slice bank 1 4) ∨
        fromBe (m.slice bank.other 1 4) = fromBe (m.slice bank 1 4) ∧ bank = .a) :
    m.chosen = some bank := by
  have here : m.isCurrent bank = true := decide_eq_true current
  cases other : m.isCurrent bank.other with
  | false =>
    unfold Media.chosen
    cases bank with
    | a => rw [here, show m.isCurrent .b = false from other]
    | b => rw [here, show m.isCurrent .a = false from other]
  | true =>
    have sequences := higher (of_decide_eq_true other)
    unfold Media.chosen Media.bankSeq
    cases bank with
    | a =>
      rw [here, show m.isCurrent .b = true from other]
      exact if_neg (by simp only [Bank.other] at sequences; omega)
    | b =>
      rw [here, show m.isCurrent .a = true from other]
      exact if_pos (sequences.resolve_right fun h => nomatch h.2)

/-- What the scan does to the other bank: nothing if FRESH, a header if BLANK, else an erase unless wear blocks it (R119). -/
theorem Media.otherSteps_spec (m : Media) (bank : Bank) :
    (m.bankState bank.other = some .fresh → m.otherSteps bank = ([], false)) ∧
    (m.bankState bank.other = some .blank →
      m.otherSteps bank =
        ([⟨.program bank.other 0 (freshBytes (m.takenCount bank)), false,
          [.freshCounted bank.other (m.takenCount bank)]⟩], false)) ∧
    (m.bankState bank.other ≠ some .fresh → m.bankState bank.other ≠ some .blank →
      m.otherSteps bank =
        if m.wornOut bank.other = true then ([], true)
        else (refreshSteps bank.other (m.takenCount bank.other + 1) false [.repaired], false)) := by
  unfold Media.otherSteps
  dsimp only
  refine ⟨fun fresh => ?_, fun blank => ?_, fun notFresh notBlank => ?_⟩
  · simp only [fresh]
  · simp only [blank]
    rfl
  · generalize m.bankState bank.other = state at notFresh notBlank ⊢
    rcases state with _ | _ | _ | _ | _ | _
    · rfl
    · exact absurd rfl notBlank
    · exact absurd rfl notFresh
    · rfl
    · rfl
    · rfl

/-! ## The walk's records (R120) -/

/-- The candidate that a good record is (R120; entries 41, 49). -/
def Media.foundAt (m : Media) (bank : Bank) (r : Walked) : Found where
  kind :=
    match r.kind with
    | .profile slot => .profile slot ((m.slice bank (r.offset + 9) 12).takeWhile fun b => decide (b ≠ erased))
    | .boot =>
      .boot ((bootSlotOf (m.read (bank.base + r.offset + 32))).getD none)
        ((bootAutoOf (m.read (bank.base + r.offset + 33))).getD false)
  writeNumber := r.writeNumber
  bodyLength := r.bodyLength
  offset := r.offset

/-- The body CRC of a record fits (R120). -/
def Media.bodyFits (m : Media) (bank : Bank) (r : Walked) : Prop :=
  (crc32 (m.slice bank (r.offset + 32) r.bodyLength)).toNat = fromBe (m.slice bank (r.offset + 21) 4)

/-- A BOOT_SELECT's body lies in range (R120). -/
def Media.bootInRange (m : Media) (bank : Bank) (r : Walked) : Prop :=
  r.kind = .boot →
    (m.read (bank.base + r.offset + 32) = 0xFF#8 ∨ (m.read (bank.base + r.offset + 32)).toNat < 8) ∧
      (m.read (bank.base + r.offset + 33)).toNat ≤ 1

theorem Media.isGood_iff (m : Media) (bank : Bank) (r : Walked) :
    m.isGood bank r = true ↔ m.stateOf bank r = .live ∧ m.bodyFits bank r ∧ m.bootInRange bank r := by
  simp only [Media.isGood, Bool.and_eq_true, decide_eq_true_eq, and_assoc, Media.bodyFits, Media.bootInRange]

theorem bootSlotOf_none {b : Byte} : bootSlotOf b = none ↔ ¬ (b = 0xFF#8 ∨ b.toNat < 8) := by
  unfold bootSlotOf
  by_cases h : b = erased
  · rw [if_pos h]
    exact iff_of_false nofun (not_not_intro (.inl h))
  · rw [if_neg h, Option.map_eq_none_iff, finOfCode_none, not_or, Nat.not_lt]
    exact ⟨fun high => ⟨h, high⟩, And.right⟩

theorem bootSlotOf_selects {b : Byte} {sel : Option (Fin 8)}
    (selects : b = 0xFF#8 ∧ sel = none ∨ ∃ i : Fin 8, b.toNat = i.val ∧ sel = some i) : bootSlotOf b = some sel := by
  obtain ⟨rfl, rfl⟩ | ⟨i, slot, rfl⟩ := selects
  · rfl
  · have notNone : b ≠ erased := by
      rintro rfl
      have : (erased : Byte).toNat = 255 := rfl
      omega
    rw [bootSlotOf, if_neg notNone, finOfCode_iff.mpr slot]
    rfl

theorem bootAutoOf_inRange {b : Byte} (range : b.toNat ≤ 1) : bootAutoOf b = some (decide (b = 1#8)) := by
  obtain zero | one : b.toNat = 0 ∨ b.toNat = 1 := by omega
  · obtain rfl : b = 0#8 := BitVec.eq_of_toNat_eq zero
    rfl
  · obtain rfl : b = 1#8 := BitVec.eq_of_toNat_eq one
    rfl

theorem bootAutoOf_out {b : Byte} (out : ¬ b.toNat ≤ 1) : bootAutoOf b = none := by
  have notZero : b ≠ 0#8 := by rintro rfl; exact out (by decide)
  have notOne : b ≠ 1#8 := by rintro rfl; exact out (by decide)
  rw [bootAutoOf, if_neg notZero, if_neg notOne]

/-- A record whose body CRC fits is a candidate, unless it is a boot selection out of range (R120). -/
theorem Media.candidate_eq (m : Media) (bank : Bank) (r : Walked) :
    (m.bootInRange bank r → m.candidate bank r.offset r.kind r.writeNumber r.bodyLength = some (m.foundAt bank r)) ∧
      (¬ m.bootInRange bank r → m.candidate bank r.offset r.kind r.writeNumber r.bodyLength = none) := by
  obtain ⟨offset, kind, writeNumber, bodyLength⟩ := r
  cases kind with
  | profile slot => exact ⟨fun _ => rfl, fun out => absurd (fun boot => nomatch boot) out⟩
  | boot =>
    simp only [Media.candidate, Media.bootInRange, Media.foundAt, forall_const]
    refine ⟨fun ⟨slot, auto⟩ => ?_, fun out => ?_⟩
    · obtain ⟨sel, selected⟩ := Option.ne_none_iff_exists'.mp (mt bootSlotOf_none.mp (not_not_intro slot))
      rw [selected, bootAutoOf_inRange auto]
      rfl
    · by_cases auto : (m.read (bank.base + offset + 33)).toNat ≤ 1
      · rw [bootSlotOf_none.mpr fun slot => out ⟨slot, auto⟩]
      · rw [bootAutoOf_out auto]
        cases bootSlotOf (m.read (bank.base + offset + 32)) <;> rfl

/-! ## What the walk has seen (R120) -/

/-- A record that the walk marks DEAD as it sees it: not DEAD already, and no good one (R120). -/
def Media.isBad (m : Media) (bank : Bank) (r : Walked) : Bool := decide (m.stateOf bank r ≠ .dead) && !m.isGood bank r

/-- A record that counts as corrupt (R120). -/
def Media.isCorrupt (m : Media) (bank : Bank) (r : Walked) : Bool :=
  decide (m.stateOf bank r = .live) && !m.isGood bank r

/-- What the walk has seen of some records, in their order. -/
def Walk.having (w : Walk) (m : Media) (bank : Bank) (rs : List Walked) : Walk where
  found := w.found ++ (rs.filter (m.isGood bank)).map (m.foundAt bank)
  kill := w.kill ++ (rs.filter (m.isBad bank)).map Walked.offset
  corrupt := w.corrupt + (rs.filter (m.isCorrupt bank)).length
  highest := (rs.map Walked.writeNumber).foldl max w.highest
  stop := w.stop

/-- The walk sees a record as good, as corrupt, as unfinished, or as DEAD already (R120). -/
theorem Walk.see_eq (w : Walk) (m : Media) (bank : Bank) (r : Walked) :
    w.see m bank r.offset r.kind r.writeNumber r.bodyLength = w.having m bank [r] := by
  have state : recordStateOf (m.read (bank.base + r.offset)) = m.stateOf bank r := rfl
  have notGood : m.stateOf bank r ≠ .live → m.isGood bank r = false := fun notLive =>
    Bool.eq_false_iff.mpr fun good => notLive ((m.isGood_iff bank r).mp good).1
  simp only [Walk.see, state]
  cases live : m.stateOf bank r with
  | live =>
    by_cases fits : m.bodyFits bank r
    · rw [if_pos (show (crc32 (m.slice bank (r.offset + Config.headerSize) r.bodyLength)).toNat = _ from fits)]
      by_cases range : m.bootInRange bank r
      · have good := (m.isGood_iff bank r).mpr ⟨live, fits, range⟩
        rw [(m.candidate_eq bank r).1 range]
        simp [Walk.having, good, Media.isBad, Media.isCorrupt]
      · have bad : m.isGood bank r = false := Bool.eq_false_iff.mpr fun good => range ((m.isGood_iff bank r).mp good).2.2
        rw [(m.candidate_eq bank r).2 range]
        simp [Walk.having, bad, Media.isBad, Media.isCorrupt, live]
    · have bad : m.isGood bank r = false := Bool.eq_false_iff.mpr fun good => fits ((m.isGood_iff bank r).mp good).2.1
      rw [if_neg (show ¬ (crc32 (m.slice bank (r.offset + Config.headerSize) r.bodyLength)).toNat = _ from fits)]
      simp [Walk.having, bad, Media.isBad, Media.isCorrupt, live]
  | dead | blank | started | written => simp [Walk.having, notGood, Media.isBad, Media.isCorrupt, live]

theorem Walk.having_append (w : Walk) (m : Media) (bank : Bank) (before rs : List Walked) :
    (w.having m bank before).having m bank rs = w.having m bank (before ++ rs) := by
  simp only [Walk.having, List.filter_append, List.map_append, List.length_append, List.foldl_append, List.append_assoc,
    Nat.add_assoc]

theorem Walk.seeAll_eq (w : Walk) (m : Media) (bank : Bank) (rs : List Walked) :
    w.seeAll m bank rs = w.having m bank rs := by
  induction rs generalizing w with
  | nil => simp [Walk.seeAll, Walk.having]
  | cons r rs ih =>
    rw [Walk.seeAll, List.foldl_cons, Walk.see_eq]
    exact (ih _).trans (w.having_append m bank [r] rs)

/-- What the scan's walk has seen of some records, with the occupied space up to a place. -/
def Media.seen (m : Media) (bank : Bank) (rs : List Walked) (stop : Nat) : Walk :=
  ⟨(rs.filter (m.isGood bank)).map (m.foundAt bank), (rs.filter (m.isBad bank)).map Walked.offset,
    (rs.filter (m.isCorrupt bank)).length, (rs.map Walked.writeNumber).foldl max 0, stop⟩

/-- The walk of the scan: the records it reads, where it ends, and what it has seen of them (R120). -/
theorem Media.walked_spec (m : Media) (bank : Bank) :
    ∃ rs stop, m.walks bank rs 32 stop ∧ rs.Pairwise (fun a b => a.offset < b.offset) ∧
      m.walked bank = m.seen bank rs stop := by
  obtain ⟨rs, stop, walks, seen, -, ascending⟩ := m.walk_spec bank 512 32 ⟨[], [], 0, 0, 32⟩ (by omega)
  refine ⟨rs, stop, walks, ascending, seen.trans ?_⟩
  rw [Walk.seeAll_eq]
  simp [Walk.having, Media.seen]

/-! ## The records in force (R121) -/

section
variable {m : Media} {bank : Bank} {rs : List Walked}

theorem Media.foundAt_samePlace (m : Media) (bank : Bank) (r x : Walked) :
    (m.foundAt bank x).kind.samePlace (m.foundAt bank r).kind = decide (x.kind = r.kind) := by
  obtain ⟨_, _ | _, _, _⟩ := r <;> obtain ⟨_, _ | _, _, _⟩ := x <;> simp [Media.foundAt, FoundKind.samePlace]

/-- A record wins where it is good and no other supersedes it (R121; entry 20). -/
theorem Media.wins_eq (m : Media) (bank : Bank) (rs : List Walked) (r : Walked) :
    m.wins bank rs r =
      (m.isGood bank r &&
        !(m.foundAt bank r).supersededIn ((rs.filter (m.isGood bank)).map (m.foundAt bank))) := by
  rw [Media.wins, Found.supersededIn, List.any_map, List.any_filter, List.not_any_eq_all_not]
  refine congrArg (m.isGood bank r && rs.all ·) (funext fun x => ?_)
  simp only [Function.comp, Media.foundAt_samePlace]
  have order : decide (x.writeNumber < r.writeNumber ∨ x.writeNumber = r.writeNumber ∧ r.offset ≤ x.offset) =
      !decide (r.writeNumber < x.writeNumber ∨ r.writeNumber = x.writeNumber ∧ x.offset < r.offset) := by
    rw [← decide_not]
    exact decide_eq_decide.mpr (by omega)
  rw [order]
  cases m.isGood bank x <;> simp [Media.foundAt]

theorem Media.wins_isGood {r : Walked} (wins : m.wins bank rs r = true) : m.isGood bank r = true :=
  ((Bool.and_eq_true _ _).mp wins).1

/-- What a winner's win says of another good record of its kind. -/
theorem Media.wins_over {r x : Walked} (wins : m.wins bank rs r = true) (mem : x ∈ rs) (good : m.isGood bank x = true)
    (kind : x.kind = r.kind) :
    x.writeNumber < r.writeNumber ∨ x.writeNumber = r.writeNumber ∧ r.offset ≤ x.offset := by
  have all := List.all_eq_true.mp ((Bool.and_eq_true _ _).mp wins).2 x mem
  simpa [good, kind] using all

theorem offsets_nodup (ascending : rs.Pairwise fun a b => a.offset < b.offset) : (rs.map Walked.offset).Nodup :=
  List.pairwise_map.mpr (ascending.imp fun h => h.ne)

/-- No two records of one kind are in force (R121). -/
theorem Media.wins_unique (ascending : rs.Pairwise fun a b => a.offset < b.offset) {r x : Walked} (hr : r ∈ rs) (hx : x ∈ rs)
    (winsR : m.wins bank rs r = true) (winsX : m.wins bank rs x = true) (kind : x.kind = r.kind) : x = r := by
  have ahead := Media.wins_over winsR hx (Media.wins_isGood winsX) kind
  have behind := Media.wins_over winsX hr (Media.wins_isGood winsR) kind.symm
  exact List.inj_on_of_nodup_map (offsets_nodup ascending) hx hr (by omega)

end

/-! ## The markings (R120, R121) -/

/-- A good record that another one supersedes (R121). -/
def Media.isBeaten (m : Media) (bank : Bank) (rs : List Walked) (r : Walked) : Bool :=
  m.isGood bank r && !m.wins bank rs r

/-- The candidates that remain are the winners (R121). -/
theorem Media.seen_kept (m : Media) (bank : Bank) (rs : List Walked) (stop : Nat) :
    (m.seen bank rs stop).kept = (rs.filter (m.wins bank rs)).map (m.foundAt bank) := by
  rw [Walk.kept, Media.seen, List.filter_map, List.filter_filter]
  refine congrArg (List.map (m.foundAt bank)) (List.filter_congr fun r _ => ?_)
  rw [Media.wins_eq, Bool.and_comm]
  rfl

/-- The records that the scan marks DEAD, in the order of their markings. -/
def Media.markedDead (m : Media) (bank : Bank) (rs : List Walked) : List Walked :=
  rs.filter (m.isBad bank) ++ rs.filter (m.isBeaten bank rs)

/-- The candidates that others supersede are the good records that do not win (R121). -/
theorem Media.seen_superseded (m : Media) (bank : Bank) (rs : List Walked) (stop : Nat) :
    ((m.seen bank rs stop).found.filter fun f => f.supersededIn (m.seen bank rs stop).found) =
      (rs.filter (m.isBeaten bank rs)).map (m.foundAt bank) := by
  rw [Media.seen, List.filter_map, List.filter_filter]
  refine congrArg (List.map (m.foundAt bank)) (List.filter_congr fun r _ => ?_)
  rw [Media.isBeaten, Media.wins_eq]
  cases m.isGood bank r <;> simp

/-- The scan marks the records that the walk found bad, then those among the candidates that are superseded (R120, R121). -/
theorem Media.seen_kills (m : Media) (bank : Bank) (rs : List Walked) (stop : Nat) :
    (m.seen bank rs stop).kills bank = ((m.markedDead bank rs).map Walked.offset).map (killStep bank) := by
  rw [Walk.kills, Media.seen_superseded, List.map_map, Media.markedDead, List.map_append (f := Walked.offset)]
  rfl

/-- The scan marks DEAD what is neither DEAD already nor in force (R120, R121). -/
theorem Media.isBad_or_isBeaten (m : Media) (bank : Bank) (rs : List Walked) (r : Walked) :
    m.isBad bank r = true ∨ m.isBeaten bank rs r = true ↔ m.stateOf bank r ≠ .dead ∧ m.wins bank rs r = false := by
  cases good : m.isGood bank r with
  | false => simp [Media.isBad, Media.isBeaten, good, Media.wins_eq]
  | true =>
    have live := ((m.isGood_iff bank r).mp good).1
    simp [Media.isBad, Media.isBeaten, good, live]

theorem Media.mem_markedDead {m : Media} {bank : Bank} {rs : List Walked} {r : Walked} :
    r ∈ m.markedDead bank rs ↔ r ∈ rs ∧ m.stateOf bank r ≠ .dead ∧ m.wins bank rs r = false := by
  rw [Media.markedDead, List.mem_append, List.mem_filter, List.mem_filter, ← and_or_left, Media.isBad_or_isBeaten]

/-- No record is marked twice. -/
theorem Media.markedDead_nodup (m : Media) (bank : Bank) {rs : List Walked}
    (ascending : rs.Pairwise fun a b => a.offset < b.offset) : ((m.markedDead bank rs).map Walked.offset).Nodup := by
  have nodup : rs.Nodup := (offsets_nodup ascending).of_map
  have apart : (rs.filter (m.isBad bank)).Disjoint (rs.filter (m.isBeaten bank rs)) := by
    intro r bad beaten
    have notGood := (Bool.and_eq_true _ _).mp (List.mem_filter.mp bad).2
    have good := (Bool.and_eq_true _ _).mp (List.mem_filter.mp beaten).2
    simp [good.1] at notGood
  refine ((nodup.filter _).append (nodup.filter _) apart).map_on fun r hr x hx same => ?_
  exact List.inj_on_of_nodup_map (offsets_nodup ascending) (Media.mem_markedDead.mp hr).1 (Media.mem_markedDead.mp hx).1 same

/-! ## The directory the scan builds (R105, R121) -/

/-- A search whose every hit is one value finds that value. -/
theorem findSome?_unique {α β : Type} {f : α → Option β} {l : List α} {a : α} {b : β} (mem : a ∈ l) (hit : f a = some b)
    (only : ∀ x ∈ l, ∀ c, f x = some c → c = b) : l.findSome? f = some b := by
  cases found : l.findSome? f with
  | none => exact absurd ((List.findSome?_eq_none_iff.mp found a mem).symm.trans hit) nofun
  | some c =>
    obtain ⟨x, hx, here⟩ := List.exists_of_findSome?_eq_some found
    rw [only x hx c here]

section
variable {m : Media} {bank : Bank} {rs : List Walked}

/-- The name a profile's header gives (R120; entry 49). -/
def Media.nameAt (m : Media) (bank : Bank) (r : Walked) : List Byte :=
  (m.slice bank (r.offset + 9) 12).takeWhile fun b => decide (b ≠ erased)

/-- What a slot's search makes of a record. -/
def Media.entryAt (m : Media) (bank : Bank) (i : Fin 8) (r : Walked) : Option DirEntry :=
  if r.kind = .profile i then some ⟨r.writeNumber, m.nameAt bank r, r.bodyLength, r.offset⟩ else none

theorem slotEntry_winners (m : Media) (bank : Bank) (winners : List Walked) (i : Fin 8) :
    slotEntry (winners.map (m.foundAt bank)) i = winners.findSome? (m.entryAt bank i) := by
  rw [slotEntry, List.findSome?_map]
  refine congrArg (fun f => List.findSome? f winners) (funext fun r => ?_)
  obtain ⟨_, _ | _, _, _⟩ := r <;> simp [Media.foundAt, Media.entryAt, Media.nameAt]

/-- What the boot selection's search makes of a record (entry 41). -/
def Media.bootAt (m : Media) (bank : Bank) (r : Walked) : Option BootEntry :=
  if r.kind = .boot then
    some
      ⟨r.writeNumber, (bootSlotOf (m.read (bank.base + r.offset + 32))).getD none,
        (bootAutoOf (m.read (bank.base + r.offset + 33))).getD false, r.offset⟩
  else none

theorem bootEntry_winners (m : Media) (bank : Bank) (winners : List Walked) :
    bootEntry (winners.map (m.foundAt bank)) = winners.findSome? (m.bootAt bank) := by
  rw [bootEntry, List.findSome?_map]
  refine congrArg (fun f => List.findSome? f winners) (funext fun r => ?_)
  obtain ⟨_, _ | _, _, _⟩ := r <;> simp [Media.foundAt, Media.bootAt]

/-- The winner of a kind is what a search for that kind finds (R121). -/
theorem findSome?_winner {β : Type} {kind : HeaderKind} {value : Walked → β}
    (ascending : rs.Pairwise fun a b => a.offset < b.offset) {r : Walked} (mem : r ∈ rs) (wins : m.wins bank rs r = true)
    (isKind : r.kind = kind) :
    (rs.filter (m.wins bank rs)).findSome? (fun x => if x.kind = kind then some (value x) else none) = some (value r) := by
  refine findSome?_unique (List.mem_filter.mpr ⟨mem, wins⟩) (if_pos isKind) fun x hx c hit => ?_
  obtain ⟨memX, winsX⟩ := List.mem_filter.mp hx
  obtain ⟨kindX, same⟩ := (Option.ite_none_right_eq_some (p := x.kind = kind)).mp hit
  obtain rfl := Option.some.inj same
  rw [Media.wins_unique ascending mem memX wins winsX (kindX.trans isKind.symm)]

/-- With no winner of a kind a search for it finds nothing. -/
theorem findSome?_noWinner {β : Type} {kind : HeaderKind} {value : Walked → β}
    (none' : ∀ r ∈ rs, m.wins bank rs r = true → r.kind ≠ kind) :
    (rs.filter (m.wins bank rs)).findSome? (fun x => if x.kind = kind then some (value x) else none) = none := by
  refine List.findSome?_eq_none_iff.mpr fun x hx => if_neg ?_
  exact none' x (List.mem_filter.mp hx).1 (List.mem_filter.mp hx).2

/-- The directory of the walk is built from its winners (R105, R121). -/
theorem Media.seen_directory (ascending : rs.Pairwise fun a b => a.offset < b.offset) (stop : Nat) :
    ((m.seen bank rs stop).directory bank).builtFrom m bank rs stop := by
  have slots (i : Fin 8) : ((m.seen bank rs stop).directory bank).slots.get i =
      (rs.filter (m.wins bank rs)).findSome? (m.entryAt bank i) := by
    rw [Walk.directory, Row.get_tab, Media.seen_kept, slotEntry_winners]
  have boot : ((m.seen bank rs stop).directory bank).boot = (rs.filter (m.wins bank rs)).findSome? (m.bootAt bank) := by
    rw [Walk.directory, Media.seen_kept, bootEntry_winners]
  refine ⟨rfl, rfl, rfl, ?_, fun i r mem wins kind => ?_, fun i none' => ?_, fun r sel mem wins kind selects => ?_,
    fun none' => ?_⟩
  · rw [Walk.directory, Media.seen_kept, List.map_map]
    rfl
  · exact (slots i).trans (findSome?_winner ascending mem wins kind)
  · exact (slots i).trans (findSome?_noWinner none')
  · have range := ((m.isGood_iff bank r).mp (Media.wins_isGood wins)).2.2 kind
    have found := boot.trans (findSome?_winner ascending mem wins kind)
    rwa [bootSlotOf_selects selects, bootAutoOf_inRange range.2] at found
  · exact boot.trans (findSome?_noWinner none')

end

/-! ## The scan's work (R119 to R121) -/

/-- With no bank CURRENT the scan formats the store, unless wear blocks that (R112, R119). -/
theorem Media.scanJob_formats {m : Media} (a : m.bankState .a ≠ some .current) (b : m.bankState .b ≠ some .current) :
    m.scanJob =
      if m.formatBlocked = true then ⟨.scan Directory.blank 0 true, [], false, true, false, 0⟩
      else ⟨.scan Directory.formatted 0 true, formatSteps m [.repaired] [], false, false, false, 0⟩ := by
  rw [Media.scanJob, Media.chosen_none a b]

/-- With a bank chosen the scan repairs the other bank and marks records DEAD (R119 to R121). -/
theorem Media.scanJob_repairs {m : Media} {bank : Bank} (chosen : m.chosen = some bank) :
    m.scanJob =
      ⟨.scan ((m.walked bank).directory bank) (m.walked bank).corrupt false,
        (m.otherSteps bank).1 ++ (m.walked bank).kills bank, false, (m.otherSteps bank).2, false, 0⟩ := by
  rw [Media.scanJob, chosen]

/-- Settles O48: the straps, the state of a bank, and the scan without and with a bank that is CURRENT. -/
theorem resetEndStartsTheScan : Obligations.ResetEndStartsTheScan := by
  refine ⟨fun s rate1 rate0 powered inReset => ?_, fun m bank => ?_, fun m => ⟨fun a b => ?_, fun bank current higher => ?_⟩⟩
  · refine congrArg Host.Outcome.next ((if_pos ⟨powered, inReset⟩).trans ?_)
    cases rate1 <;> cases rate0 <;> rfl
  · refine ⟨Media.bankState_blank, fun header fails => ?_, fun header checks => ?_, Media.takenCount_spec m bank⟩
    · rw [Media.bankState_header header, if_neg fails]
    · rw [Media.bankState_header header, if_pos checks]
      simp only [Option.some.injEq]
      exact bankStateOf_spec _
  · rw [Media.scanJob_formats a b]
    exact ⟨fun blocked => if_pos (m.formatBlocked_iff.mpr blocked), fun free => if_neg (mt m.formatBlocked_iff.mp free)⟩
  · obtain ⟨rs, stop, walks, ascending, walked⟩ := m.walked_spec bank
    obtain ⟨fresh, blank, repair⟩ := m.otherSteps_spec bank
    have job := Media.scanJob_repairs (Media.chosen_current current higher)
    rw [walked, Media.seen_kills, List.map_map] at job
    refine ⟨rs, stop, _, _, (m.otherSteps bank).1, (m.otherSteps bank).2, (m.markedDead bank rs).map Walked.offset, walks,
      Media.seen_directory ascending stop, rfl, m.markedDead_nodup bank ascending, fun o => ?_, ?_, fun h => ?_, fun h => ?_,
      fun notFresh notBlank => ?_⟩
    · simp only [List.mem_map, Media.mem_markedDead]
      exact exists_congr fun r =>
        ⟨fun ⟨⟨mem, alive, loses⟩, here⟩ => ⟨mem, here, alive, loses⟩,
          fun ⟨mem, here, alive, loses⟩ => ⟨⟨mem, alive, loses⟩, here⟩⟩
    · rw [List.map_map]
      exact job
    · exact Prod.mk.inj (fresh h)
    · exact Prod.mk.inj (blank h)
    · rw [repair notFresh notBlank, Media.wornOut_eq]
      refine ⟨fun worn => ?_, fun free => ?_⟩
      · rw [if_pos (decide_eq_true worn)]
        exact ⟨rfl, rfl⟩
      · rw [if_neg (by simpa using free)]
        exact ⟨rfl, rfl⟩

end Sys2Proof.Machine
end

section
/-! Stages 6 and 7 of start-up, the requests that end a session or restart the part, and the end of the frame that they
wait for (R124, R130, R131, R142, R154). -/

-- The text is long enough that elaborating its proofs in threads of their own would exceed the memory limit.
set_option Elab.async false

namespace Sys2Proof.Machine

/-! ## Stages 6 and 7 (R130, R131) -/

/-- The tests of R130 in their order. -/
theorem State.autoDecision_spec (s : State) :
    (s.startup.autoRun = false → s.autoDecision = .off) ∧
      (s.startup.autoRun = true → s.startup.bootResult ≠ .loaded → s.autoDecision = .notBooted) ∧
      (s.startup.autoRun = true → s.startup.bootResult = .loaded → s.stopAsserted = true →
        s.autoDecision = .inhibited) ∧
      (s.startup.autoRun = true → s.startup.bootResult = .loaded → s.stopAsserted = false →
        s.autoDecision = if s.plans.active.hasWork = true then .started else .planEmpty) := by
  unfold State.autoDecision
  refine ⟨fun off => if_pos off, fun on other => ?_, fun on loaded stopped => ?_, fun on loaded released => ?_⟩
  · rw [if_neg (by simp [on]), if_pos other]
  · rw [if_neg (by simp [on]), if_neg (not_not.mpr loaded), if_pos stopped]
  · rw [if_neg (by simp [on]), if_neg (not_not.mpr loaded), if_neg (by simp [released])]
    cases s.plans.active.hasWork <;> rfl

/-- The state with the auto-run result that stage 6 decides (R130). -/
def State.autoDecided (s : State) : State := { s with startup := { s.startup with autoResult := s.autoDecision } }

theorem State.autoRunStage_stands {s : State} (stands : s.autoDecision ≠ .started) : s.autoRunStage = s.autoDecided :=
  if_neg stands

/-- The RUN of stage 6 is a RUN with count 0, beside the result that stage 6 has decided (R12, R130). -/
theorem State.autoRunStage_started {s : State} (started : s.autoDecision = .started) :
    s.autoRunStage = (s.startRun 0).beside s.autoDecided :=
  (if_pos started).trans (s.startRun_beside s.autoDecided 0)

theorem State.autoRunStage_startup (s : State) : s.autoRunStage.startup = s.autoDecided.startup := by
  by_cases started : s.autoDecision = .started
  · rw [State.autoRunStage_started started]
    rfl
  · rw [State.autoRunStage_stands started]

/-- STARTUP_REPORT's occurrence with an auto-run result (R131). -/
def State.startupReport (s : State) (result : AutoResult) : Occurrence :=
  .report (.startup s.startup.cause s.startup.scan s.startup.bootSlot s.startup.bootResult result)

/-- Stages 6 and 7: what stage 6 leaves of the sequencer and its users, start-up COMPLETE with the result decided, and the
report behind what stage 6 has raised. -/
theorem State.runStage_spec (s : State) :
    (s.runStage.seq = s.autoRunStage.seq ∧ s.runStage.plans = s.autoRunStage.plans ∧
        s.runStage.timeline = s.autoRunStage.timeline ∧ s.runStage.channels = s.autoRunStage.channels ∧
        s.runStage.monitor = s.autoRunStage.monitor) ∧
      s.runStage.startup = { s.startup with stage := .complete, autoResult := s.autoDecision } ∧
      s.runStage.notices.like (s.autoRunStage.notices.raise (s.startupReport s.autoDecision)) := by
  have agrees : s.runStage.agrees s.autoRunStage.reportStage := State.arbitrate_agrees _
  obtain ⟨seq, plans, timeline, channels, -, -, monitor, -, -, startup, -⟩ := agrees.parts
  have told := agrees.notices
  simp only [State.reportStage, State.raise, State.autoRunStage_startup] at startup told
  exact ⟨⟨seq, plans, timeline, channels, monitor⟩, startup, told⟩

/-- With nothing waiting and stages 6 and 7 alone due, a step takes them. -/
theorem step_runStage {s : State} (none : s.pending = []) (live : s.live = true) (due : s.dueAll = [.runStage]) :
    step s = .next s.runStage := by
  rw [step, none]
  show s.idle = _
  rw [State.idle, if_pos live, due]
  rfl

/-- Settles O50, by whether the auto-run starts, and then by the active plan's source. -/
theorem autoRunStageFollowsItsTests : Obligations.AutoRunStageFollowsItsTests := by
  unfold Obligations.AutoRunStageFollowsItsTests
  intro s none live due
  obtain ⟨⟨seq, plans, timeline, channels, monitor⟩, startup, told⟩ := s.runStage_spec
  have result : s.runStage.startup.autoResult = s.autoDecision := congrArg Startup.autoResult startup
  obtain ⟨off, notBooted, inhibited, tested⟩ := s.autoDecision_spec
  refine ⟨s.runStage, step_runStage none live due, ?_⟩
  rw [result, seq, plans, timeline, channels, monitor]
  refine ⟨startup, off, notBooted, inhibited, tested, fun stands => ?_, fun started source => ?_,
    fun started source => ?_⟩
  · rw [State.autoRunStage_stands stands] at told ⊢
    exact ⟨told, rfl, rfl, rfl, rfl, rfl⟩
  · rw [State.autoRunStage_started started, State.startRun_internal source] at told ⊢
    exact ⟨_, State.cycleStart_spec _, rfl, rfl, rfl, rfl, rfl, told⟩
  · rw [State.autoRunStage_started started, State.startRun_triggered source] at told ⊢
    exact ⟨told, rfl⟩

/-! ## GOODBYE and RESTART (R124, R154) -/

/-- A request whose owner sets the intake alone. -/
theorem requestStep_setsIntake {π : Type} {code : Nat} {read : List Byte → Option π} {owner : π → State → Answer} {q : Req}
    {s : State} {p : π} {c : Instr} {i : Intake} (hc : exec c s = requestStep code read owner q s) (h : s.ready code q)
    (hp : read q.params = some p) (sets : owner p (s.taken code q) = okay ((s.taken code q).setIntake i)) :
    Answers c s code q { s with session := { s.session with intake := i } } .ok [] :=
  requestStep_changes (f := fun t => t.setIntake i) (fun _ => rfl) (fun _ => rfl) hc h hp sets

theorem restartOwner_busy {s : State} (busy : s.store.status = .busy) : restartOwner () s = refuse s .storeBusy :=
  if_pos busy

theorem restartOwner_free {s : State} (free : s.store.status ≠ .busy) :
    restartOwner () s = okay (s.setIntake .awaitingRestart) := if_neg free

/-- Settles O26: GOODBYE always, RESTART by the store's state. -/
theorem goodbyeAndRestartAwaitTheirReply : Obligations.GoodbyeAndRestartAwaitTheirReply := by
  intro s q params
  have read := readNothing_nil params
  exact ⟨fun ready => requestStep_setsIntake (owner := goodbyeOwner) rfl ready read rfl,
    fun ready free => requestStep_setsIntake rfl ready read (restartOwner_free (by simpa using free)),
    fun ready busy => requestStep_refused rfl ready read (restartOwner_busy (by simpa using busy))⟩

/-! ## The end of a frame (R142) -/

theorem exec_transmitFrameEnd {s : State} {owner : TxOwner} {frame : List Byte} (live : s.live = true)
    (sends : s.link.tx = .sending owner frame) :
    exec .transmitFrameEnd s = .next (s.frameLeft owner).txIdle.arbitrate := by
  show execTransmitFrameEnd s = _
  rw [execTransmitFrameEnd, sends]
  exact congrArg Host.Outcome.next (if_pos live)

/-- The end of a notice's frame starts the resend timer of the entry that carries its number, while it is sent (R164). -/
theorem Notices.change_frameEnded (q : Notices) (k : Nat) :
    q.change k (Notice.frameEnded q.resend) =
      { q with
        entries :=
          q.entries.map fun n => if n.number = k ∧ n.sent = true then { n with timer := some ⟨0, q.resend⟩ } else n } := by
  have each (n : Notice) :
      (if n.number = k then n.frameEnded q.resend else n) =
        if n.number = k ∧ n.sent = true then { n with timer := some ⟨0, q.resend⟩ } else n := by
    rw [ite_and]
    rfl
  simp only [Notices.change, each]

/-- The state with one more reply sent (R145). -/
def State.replyCounted (s : State) : State := s.countLink fun c => { c with repliesSent := bump c.repliesSent }

/-- The Request Handler acts on no reply while the intake is TAKING (R142). -/
theorem State.frameLeft_taking {s : State} (taking : s.session.intake = .taking) (code : Byte) (status : Status) :
    s.frameLeft (.reply code status) = s.replyCounted := by
  have awaitsNone : s.replyCounted.session.intake = .taking := taking
  show s.replyCounted.replyLeft code status = _
  exact (if_neg (by simp [awaitsNone])).trans (if_neg (by simp [awaitsNone]))

/-- The end of GOODBYE's reply closes the session, and the intake takes requests again (R154). -/
theorem State.frameLeft_goodbye {s : State} (awaits : s.session.intake = .awaitingGoodbye) :
    s.frameLeft (.reply 35#8 .ok) = s.replyCounted.closeSession.setIntake .taking := if_pos ⟨rfl, rfl, awaits⟩

/-- The end of RESTART's reply is a reset (R124). -/
theorem State.frameLeft_restart {s : State} (awaits : s.session.intake = .awaitingRestart) :
    s.frameLeft (.reply 33#8 .ok) = s.replyCounted.resetBy .restart [] true := by
  show s.replyCounted.replyLeft 33#8 .ok = _
  exact (if_neg (by simp)).trans (if_pos ⟨rfl, rfl, awaits⟩)

/-- Settles O36, by the owner of the frame, and for a reply by what the intake awaits. -/
theorem transmitFrameEndTellsTheOwner : Obligations.TransmitFrameEndTellsTheOwner := by
  intro s frame live counted
  refine ⟨fun k sends => ?_, fun code status sends taking => ?_, fun sends awaits => ?_, fun sends awaits noJob => ?_⟩
  · rw [exec_transmitFrameEnd live sends, ← Notices.change_frameEnded]
    rfl
  · rw [exec_transmitFrameEnd live sends, State.frameLeft_taking taking]
    rfl
  · rw [exec_transmitFrameEnd live sends, State.frameLeft_goodbye awaits]
    rfl
  · have media : s.replyCounted.tornMedia [] = s.media :=
      State.tornMedia_idle (by simp [State.replyCounted, noJob]) []
    rw [exec_transmitFrameEnd live sends, State.frameLeft_restart awaits, State.resetBy_sends, State.resetBy, media]
    rfl

end Sys2Proof.Machine
end

section
/-! The host link (chapter 8): the assembler's characters, frames and gaps. -/

-- The text is long enough that elaborating its proofs in threads of their own would exceed the memory limit.
set_option Elab.async false

namespace Sys2Proof.Machine

/-! ## What a live part makes of characters, frames and gaps -/

theorem exec_characterReceived {s : State} (live : s.live = true) (b : Byte) (lineError : Bool) :
    exec (.characterReceived b lineError) s = .next (s.characterArrives b lineError) :=
  congrArg Host.Outcome.next (if_pos live)

theorem exec_frameReceived {s : State} (live : s.live = true) (bytes : List Byte) :
    exec (.frameReceived bytes) s = .next (s.frameArrives bytes) :=
  congrArg Host.Outcome.next (if_pos live)

theorem State.gapDue_of {s : State} {n : Nat} (runs : s.link.asm.gap = some n) (up : 4000 ≤ n) : s.gapDue = true := by
  rw [State.gapDue, runs]
  exact (timeUp_iff n Config.gapMs).mpr up

theorem exec_gapTimerExpiry {s : State} {n : Nat} (live : s.live = true) (runs : s.link.asm.gap = some n) (up : 4000 ≤ n) :
    exec .gapTimerExpiry s = .next s.gapExpired :=
  congrArg Host.Outcome.next (if_pos (by rw [live, State.gapDue_of runs up]; rfl))

/-! ## A byte at the assembler (R136) -/

theorem Asm.complete_part {a : Asm} (state : a.state ≠ .check) : a.complete = false := by
  unfold Asm.complete
  split
  · contradiction
  · rfl

theorem Asm.complete_check {a : Asm} {n : Nat} (state : a.state = .check) (expected : a.expected = some n) :
    a.complete = decide (a.held.length = n + 3) := by
  rw [Asm.complete, state, expected]

/-- A byte that is no false SYNC moves the assembler, and that is all. -/
theorem State.receive_part {s : State} {a : Asm} {b : Byte} (part : s.link.asm.complete = false)
    (examined : s.link.asm.examine b = (a, false)) : s.receive b = s.withAsm a := by
  simp [State.receive, State.checkIfComplete, part, examined]

theorem State.receive_lengthError {s : State} {a : Asm} {b : Byte} (part : s.link.asm.complete = false)
    (examined : s.link.asm.examine b = (a, true)) : s.receive b = (s.withAsm a).linkEvent .lengthError := by
  simp [State.receive, State.checkIfComplete, part, examined]

/-- A byte behind a complete frame arrives once that frame has been checked. -/
theorem State.receive_complete {s : State} (full : s.link.asm.complete = true) (b : Byte) :
    s.receive b = s.checkFrame.receive b := by
  have checked : s.checkIfComplete = s.checkFrame := if_pos full
  have twice : s.checkFrame.checkIfComplete = s.checkFrame := checked ▸ s.checkIfComplete_twice
  simp only [State.receive, checked, twice]

theorem Asm.examine_searching {a : Asm} (state : a.state = .searching) (b : Byte) :
    a.examine b = if b = syncByte then (⟨.length, [], none, some 0⟩, false) else (a, false) := by
  rw [Asm.examine, state]

theorem Asm.examine_length {a : Asm} (state : a.state = .length) (b : Byte) :
    a.examine b = if lengthOk b then (⟨.body, [b], some b.toNat, some 0⟩, false) else (Asm.reset, true) := by
  rw [Asm.examine, state]

theorem Asm.examine_body {a : Asm} {n : Nat} (state : a.state = .body) (expected : a.expected = some n) (b : Byte) :
    a.examine b = (⟨if a.held.length = n then .check else .body, a.held ++ [b], some n, some 0⟩, false) := by
  simp [Asm.examine, state, expected]

theorem Asm.examine_check {a : Asm} {n : Nat} (state : a.state = .check) (expected : a.expected = some n) (b : Byte) :
    a.examine b = (⟨.check, a.held ++ [b], some n, some 0⟩, false) := by
  rw [Asm.examine, state, expected]

theorem lengthOk_iff (b : Byte) : lengthOk b = true ↔ 1 ≤ b.toNat ∧ b.toNat ≤ 250 := decide_eq_true_iff

/-- Bytes without a SYNC leave nothing to examine again (R137, R138). -/
theorem rescan_noSync {bytes : List Byte} (none : ∀ x ∈ bytes, x ≠ syncByte) (flush : Bool) (gap : Option Nat) (k : Nat) :
    rescan flush gap k bytes = ([], Asm.reset) := by
  induction bytes generalizing k with
  | nil => cases k <;> rfl
  | cons x xs ih =>
    cases k with
    | zero => rfl
    | succ k =>
      rw [rescan_other _ _ _ _ _ (none x List.mem_cons_self)]
      exact ih (fun y mem => none y (List.mem_cons_of_mem x mem)) k

/-! ## The gap timer (R137) -/

/-- The frame that the gap timer cuts short, discarded and counted. -/
def State.gapDiscarded (s : State) : State := (s.linkEvent .gap).withAsm Asm.reset

theorem State.gapExpired_eq (s : State) :
    s.gapExpired = s.gapDiscarded.rescanned (rescan true none s.link.asm.held.length s.link.asm.held) :=
  (State.rescanned_withAsm _ _ _).symm

/-- The held bytes arrive again behind the discard; a frame that they end inside has timed out too. -/
theorem State.gapExpired_feed (s : State) :
    s.gapExpired =
      if (s.gapDiscarded.feed s.link.asm.held).link.asm.state = .searching then s.gapDiscarded.feed s.link.asm.held
      else (s.gapDiscarded.feed s.link.asm.held).gapExpired := by
  rw [State.gapExpired_eq]
  exact State.rescan_flush _ _ _ rfl le_rfl

/-- What the gap timer leaves depends on the bytes held, not on what the timer reads. -/
theorem State.gapExpired_withGap (s : State) (gap : Option Nat) :
    (s.withAsm { s.link.asm with gap := gap }).gapExpired = s.gapExpired := by
  rw [State.gapExpired, State.linkEvent_withAsm, State.rescanned_withAsm]
  rfl

/-- A gap timer set to its limit runs out. -/
theorem exec_gapTimerExpiry_up {s : State} (live : s.live = true) :
    exec .gapTimerExpiry (s.withAsm { s.link.asm with gap := some 4000 }) = .next s.gapExpired := by
  have runs : (s.withAsm { s.link.asm with gap := some 4000 }).link.asm.gap = some 4000 := rfl
  have live' : (s.withAsm { s.link.asm with gap := some 4000 }).live = true := live
  rw [exec_gapTimerExpiry live' runs le_rfl, State.gapExpired_withGap]

theorem State.live_of_startup {s t : State} (same : t.startup = s.startup) : t.live = s.live := by
  rw [State.live, State.live, same]

theorem State.feed_startup (s : State) (bytes : List Byte) : (s.feed bytes).startup = s.startup := by
  have received := foldl_keeps State.startup State.receive (by simp) bytes s
  simpa [State.feed] using received

/-- Settles O34: a character by the assembler's state, and the gap timer by the bytes examined again. -/
theorem charactersFeedTheAssembler : Obligations.CharactersFeedTheAssembler := by
  intro s b bad live
  constructor
  · intro s' a
    have asm : s'.link.asm = a := by cases bad <;> rfl
    have live' : s'.live = true := by cases bad <;> exact live
    have arrives : exec (.characterReceived b bad) s = .next (s'.receive b) := exec_characterReceived live b bad
    have moves {x : Asm} (part : a.complete = false) (examined : a.examine b = (x, false)) :
        exec (.characterReceived b bad) s = .next (s'.withAsm x) := by
      rw [arrives, State.receive_part (asm ▸ part) (asm ▸ examined)]
    refine ⟨fun searching other => ?_, fun searching sync => ?_, fun length low high => ?_, fun length range => ?_,
      fun n body expected => ?_, fun n check expected short => ?_, fun full => ?_⟩
    · have stays := moves (Asm.complete_part (by simp [searching])) ((Asm.examine_searching searching b).trans (if_neg other))
      rwa [← asm, State.withAsm_self] at stays
    · exact moves (Asm.complete_part (by simp [searching])) ((Asm.examine_searching searching b).trans (if_pos sync))
    · exact moves (Asm.complete_part (by simp [length]))
        ((Asm.examine_length length b).trans (if_pos ((lengthOk_iff b).mpr ⟨low, high⟩)))
    · have out : ¬ lengthOk b = true := by
        rw [lengthOk_iff]
        rcases range with rfl | high
        · simp
        · omega
      rw [arrives, State.receive_lengthError (asm ▸ Asm.complete_part (by simp [length]))
        (asm ▸ (Asm.examine_length length b).trans (if_neg out))]
      rfl
    · exact moves (Asm.complete_part (by simp [body])) (Asm.examine_body body expected b)
    · exact moves ((Asm.complete_check check expected).trans (decide_eq_false (Nat.ne_of_lt short)))
        (Asm.examine_check check expected b)
    · have full' : s'.link.asm.complete = true := asm ▸ full
      have checked : s'.frameArrives a.held = s'.checkFrame := if_pos ⟨full', by rw [asm]⟩
      have liveChecked : s'.checkFrame.live = true := (State.live_of_startup (by simp)).trans live'
      refine ⟨s'.checkFrame, (exec_frameReceived live' _).trans (congrArg _ checked), ?_⟩
      rw [arrives, State.receive_complete full', exec_characterReceived liveChecked]
      rfl
  · intro n runs up discarded
    have expires := exec_gapTimerExpiry live runs up
    refine ⟨fun noSync => ?_, s.gapDiscarded.feed s.link.asm.held, State.fedTo_feed _ _ live, fun done => ?_,
      fun inside => ?_⟩
    · rw [expires, State.gapExpired_eq, rescan_noSync noSync]
      rfl
    · rw [expires, State.gapExpired_feed, if_pos done]
    · have live' : (s.gapDiscarded.feed s.link.asm.held).live = true :=
        (State.live_of_startup (State.feed_startup _ _)).trans live
      rw [expires, State.gapExpired_feed, if_neg inside]
      exact (exec_gapTimerExpiry_up live').symm

end Sys2Proof.Machine

end

section
/-! The host link (chapter 8): a whole frame, checked and offered. -/

-- The text is long enough that elaborating its proofs in threads of their own would exceed the memory limit.
set_option Elab.async false

namespace Sys2Proof.Machine

/-! ## A whole frame (R138 to R140, R170) -/

theorem fromBe_be2 {n : Nat} (h : n < 65536) : fromBe (be2 n) = n := by
  have := read2_iff.mpr ⟨h, (List.append_nil (be2 n)).symm⟩
  simpa [be2, read2] using this

theorem frameIn_spelled (body : List Byte) (crc : W16) : frameIn body.length (body ++ be2 crc.toNat) = ⟨body, crc⟩ := by
  have whole : (be2 crc.toNat).take 2 = be2 crc.toNat := rfl
  simp [frameIn, whole, fromBe_be2 crc.isLt]

/-- The assembler holding a whole frame, its gap timer having run for some ticks (R136). -/
def Asm.whole (body : List Byte) (crc : W16) (elapsed : Nat) : Asm :=
  ⟨.check, be1 body.length ++ body ++ be2 crc.toNat, some body.length, some elapsed⟩

theorem toNat_lengthByte {body : List Byte} (high : body.length ≤ 250) : (BitVec.ofNat 8 body.length).toNat = body.length := by
  rw [BitVec.toNat_ofNat]
  omega

theorem Asm.whole_eq_holding {body : List Byte} (high : body.length ≤ 250) (crc : W16) (elapsed : Nat) :
    Asm.whole body crc elapsed = Asm.holding (BitVec.ofNat 8 body.length :: (body ++ be2 crc.toNat)) (some elapsed) := by
  simp [Asm.whole, Asm.holding, toNat_lengthByte high, be1]

theorem Asm.whole_complete (body : List Byte) (crc : W16) (elapsed : Nat) : (Asm.whole body crc elapsed).complete = true := by
  simp [Asm.whole, Asm.complete, be1, be2]

/-- The bytes of a whole frame are checked alike, arriving behind a SYNC in SEARCHING or held by the assembler. -/
theorem State.frameArrives_whole {s : State} {body : List Byte} {crc : W16} {elapsed : Nat} (low : 1 ≤ body.length)
    (high : body.length ≤ 250)
    (asm : s.link.asm = Asm.reset ∧ elapsed = 0 ∨ s.link.asm = Asm.whole body crc elapsed) :
    s.frameArrives (be1 body.length ++ body ++ be2 crc.toNat) = (s.withAsm (Asm.whole body crc elapsed)).checkFrame := by
  rcases asm with ⟨searching, rfl⟩ | held
  · have length : lengthOk (BitVec.ofNat 8 body.length) = true := by
      rw [lengthOk_iff, toNat_lengthByte high]
      exact ⟨low, high⟩
    have whole : (BitVec.ofNat 8 body.length).toNat + 2 = (body ++ be2 crc.toNat).length := by
      simp [toNat_lengthByte high]
    have fed := s.feed_long searching _ _ length whole.le
    have checked : (s.withAsm (Asm.whole body crc 0)).checkFrame.checkIfComplete =
        (s.withAsm (Asm.whole body crc 0)).checkFrame := by
      rw [State.checkIfComplete, State.checkFrame_complete]
      rfl
    rw [whole, List.take_length, List.drop_length, ← Asm.whole_eq_holding high] at fed
    have absent : s.frameArrives (be1 body.length ++ body ++ be2 crc.toNat) =
        s.feed (syncByte :: BitVec.ofNat 8 body.length :: (body ++ be2 crc.toNat)) :=
      if_neg (by rw [searching]; simp [Asm.reset, Asm.complete])
    rw [absent, fed]
    exact checked
  · have full : s.link.asm.complete = true ∧ s.link.asm.held = be1 body.length ++ body ++ be2 crc.toNat :=
      ⟨held ▸ Asm.whole_complete body crc elapsed, by rw [held]; rfl⟩
    rw [← held, State.withAsm_self]
    exact if_pos full

/-- The check of a whole frame whose CRC is right (R138). -/
theorem State.checkFrame_good {s : State} {body : List Byte} {crc : W16} {elapsed : Nat} (high : body.length ≤ 250)
    (right : crc = crc16 (be1 body.length ++ body)) :
    (s.withAsm (Asm.whole body crc elapsed)).checkFrame = (s.withAsm Asm.reset).goodFrame ⟨body, crc⟩ := by
  have crcOk : Frame.crcOk ⟨body, crc⟩ = true := decide_eq_true right.symm
  have apart := fun a => State.linkEvent_withAsm s a (.good ⟨body, crc⟩)
  simp only [State.linkEvent] at apart
  rw [Asm.whole_eq_holding high, State.checkFrame, State.withAsm_asm, Asm.holding_held]
  dsimp only
  rw [toNat_lengthByte high, frameIn_spelled, if_pos crcOk, apart, apart, State.withAsm_withAsm]

/-- The check of a whole frame whose CRC is wrong: its held bytes are examined again (R138). -/
theorem State.checkFrame_bad {s : State} {body : List Byte} {crc : W16} {elapsed : Nat} (high : body.length ≤ 250)
    (wrong : crc ≠ crc16 (be1 body.length ++ body)) :
    (s.withAsm (Asm.whole body crc elapsed)).checkFrame =
      ((s.withAsm Asm.reset).linkEvent .badCrc).rescanned
        (rescan false (some elapsed) (body.length + 3) (be1 body.length ++ body ++ be2 crc.toNat)) := by
  have crcBad : ¬ Frame.crcOk ⟨body, crc⟩ = true := fun right => wrong (of_decide_eq_true right).symm
  have fuel : (BitVec.ofNat 8 body.length :: (body ++ be2 crc.toNat)).length = body.length + 3 := by simp
  rw [Asm.whole_eq_holding high, State.checkFrame, State.withAsm_asm, Asm.holding_held]
  dsimp only
  rw [toNat_lengthByte high, frameIn_spelled, if_neg crcBad, State.linkEvent_withAsm, State.linkEvent_withAsm,
    State.rescanned_withAsm, State.rescanned_withAsm, fuel, Asm.holding_gap]
  rfl

/-- Bytes examined again leave what arriving bytes leave, with the gap timer that the examination is given in the frame they
end inside (R138). -/
theorem State.rescanned_gap {s : State} (searching : s.link.asm = Asm.reset) (elapsed k : Nat) {bytes : List Byte}
    (fuel : bytes.length ≤ k) :
    s.rescanned (rescan false (some elapsed) k bytes) =
      (s.feed bytes).withAsm
        { (s.feed bytes).link.asm with gap := (s.feed bytes).link.asm.gap.map fun _ => elapsed } := by
  rw [← State.rescan_feed k bytes s searching fuel, rescan_gap]
  rfl

/-- Activity restarts the lapse timer of a session that has one, and changes nothing else (R155). -/
theorem State.linkActivity_eq (s : State) :
    s.linkActivity =
      { s with
        session :=
          { s.session with
            lapseTimer :=
              if s.session.isOpen = true ∧ s.session.lapseTime ≠ 0 then some 0 else s.session.lapseTimer } } := by
  unfold State.linkActivity
  split <;> rfl

/-- A good frame counted and reported as activity, before its body is looked at (R138, R155). -/
def State.goodCounted (s : State) : State :=
  (s.countLink fun c => { c with framesGood := bump c.framesGood }).linkActivity

theorem State.goodFrame_offers {s : State} {f : Frame} (ok : bodyOk f.body = true) :
    s.goodFrame f = s.goodCounted.offer f := if_pos ok

theorem State.goodFrame_badBody {s : State} {f : Frame} (bad : ¬ bodyOk f.body = true) :
    s.goodFrame f = s.goodCounted.countLink fun c => { c with badBody := bump c.badBody } := if_neg bad

theorem State.offer_free {s : State} (free : s.link.waiting = none) (f : Frame) :
    s.offer f = { s with link := { s.link with waiting := some f } } := by
  rw [State.offer, free]

theorem State.offer_overrun {s : State} (waits : s.link.waiting ≠ none) (f : Frame) :
    s.offer f = s.countLink fun c => { c with overrun := bump c.overrun } := by
  obtain ⟨g, waits⟩ := Option.ne_none_iff_exists'.mp waits
  rw [State.offer, waits]

/-- The body check by the first byte and the length (R139). -/
theorem bodyOk_iff (body : List Byte) :
    bodyOk body = true ↔
      (body.head? = some 0x01#8 ∧ 3 ≤ body.length) ∨ (body.head? = some 0x04#8 ∧ body.length = 3) := by
  cases body with
  | nil => simp [bodyOk]
  | cons t rest => simp [bodyOk]

/-- Settles O33: the check of the whole frame by its CRC, its body and the holding. -/
theorem frameReceivedIsCheckedAndOffered : Obligations.FrameReceivedIsCheckedAndOffered := by
  intro s body crc elapsed live low high bytes asm kind empty good bad
  have arrives : exec (.frameReceived bytes) s = .next (s.withAsm (Asm.whole body crc elapsed)).checkFrame :=
    (exec_frameReceived live bytes).trans (congrArg _ (State.frameArrives_whole low high asm))
  have counted : (s.withAsm Asm.reset).goodCounted = good := State.linkActivity_eq _
  refine ⟨fun right ok free => ?_, fun right ok waits => ?_, fun right bodyBad => ?_, fun wrong => ?_⟩
  · rw [arrives, State.checkFrame_good high right, State.goodFrame_offers ((bodyOk_iff body).mpr ok), counted,
      State.offer_free (s := good) free]
  · rw [arrives, State.checkFrame_good high right, State.goodFrame_offers ((bodyOk_iff body).mpr ok), counted,
      State.offer_overrun (s := good) waits]
    rfl
  · rw [arrives, State.checkFrame_good high right, State.goodFrame_badBody (mt (bodyOk_iff body).mp bodyBad), counted]
    rfl
  · rw [arrives, State.checkFrame_bad high wrong]
    refine ⟨fun noSync => ?_, bad.feed bytes, State.fedTo_feed bad bytes live, ?_⟩
    · rw [rescan_noSync noSync]
      rfl
    · exact congrArg _ (State.rescanned_gap rfl elapsed (body.length + 3) (by simp; omega))

end Sys2Proof.Machine

end

section
/-! The host link (chapter 8): the arbiter, and what the bodies of replies and notices carry (11). -/

-- The text is long enough that elaborating its proofs in threads of their own would exceed the memory limit.
set_option Elab.async false

namespace Sys2Proof.Machine

/-! ## The arbiter (R143, R144, R164) -/

theorem State.arbitrate_sending {s : State} {owner : TxOwner} {sent : List Byte} (sends : s.link.tx = .sending owner sent) :
    s.arbitrate = s := by
  rw [State.arbitrate, sends]

/-- The oldest reply is begun (R143). -/
theorem State.arbitrate_reply {s : State} {r : Reply} {rest : List Reply} (idle : s.link.tx = .idle)
    (outbox : s.link.outbox = r :: rest) :
    s.arbitrate =
      { s with link := { s.link with outbox := rest, tx := .sending (.reply r.code r.status) (frameOf r.body) } } := by
  rw [State.arbitrate, idle, outbox]

/-- Without a reply the notices have the transmitter (R143). -/
theorem State.arbitrate_notice {s : State} (idle : s.link.tx = .idle) (outbox : s.link.outbox = []) :
    s.arbitrate = s.beginNotice := by
  rw [State.arbitrate, idle, outbox]

/-- The first unsent notice of an OPEN session is the next one (R143, R144). -/
theorem State.nextNotice_some {s : State} {before after : List Notice} {n : Notice} (opened : s.session.isOpen = true)
    (entries : s.notices.entries = before ++ n :: after) (sent : ∀ m ∈ before, m.sent = true) (unsent : n.sent = false) :
    s.nextNotice = some n :=
  (if_pos opened).trans (List.find?_eq_some_iff_append.mpr
    ⟨by simp [unsent], before, after, entries, fun m mem => by simp [sent m mem]⟩)

theorem State.nextNotice_none {s : State}
    (none : s.session.isOpen = false ∨ ∀ m ∈ s.notices.entries, m.sent = true) : s.nextNotice = Option.none := by
  unfold State.nextNotice
  split
  next opened =>
    rcases none with closed | sent
    · exact nomatch opened.symm.trans closed
    · exact List.find?_eq_none.mpr fun m mem => by simp [sent m mem]
  next => rfl

theorem State.beginNotice_some {s : State} {n : Notice} (next : s.nextNotice = some n) :
    s.beginNotice =
      { s with
        link := { s.link with tx := .sending (.notice n.number) (frameOf n.body) }
        notices := s.notices.change n.number Notice.begun } := by
  rw [State.beginNotice, next]

theorem State.beginNotice_none {s : State} (none : s.nextNotice = Option.none) : s.beginNotice = s := by
  rw [State.beginNotice, none]

/-! ## What bodies carry (R152, R171, R173) -/

theorem yesNo_byte (b : Bool) : be1 (yesNo b) = [if b = true then 0x01#8 else 0x00#8] := by cases b <;> rfl

theorem orFF_eq (o : Option Nat) : orFF o = [(o.map (BitVec.ofNat 8)).getD 0xFF#8] := by cases o <;> rfl

theorem orFF_fin {n : Nat} (o : Option (Fin n)) :
    orFF (o.map Fin.val) = [(o.map fun i => BitVec.ofNat 8 i.val).getD 0xFF#8] := by cases o <;> rfl

theorem Reply.body_eq (r : Reply) :
    r.body =
      [0x02#8, r.tag, r.code, BitVec.ofNat 8 r.status.code, if r.repeated = true then 0x01#8 else 0x00#8] ++
        r.status.data ++ r.payload := by
  rw [Reply.body, yesNo_byte]
  rfl

/-- The other statuses carry no data (R152). -/
theorem Status.data_none {status : Status} (pending : ∀ e, status ≠ .pending e) (version : status ≠ .version)
    (badValue : ∀ k, status ≠ .badValue k) (tooLate : ∀ x, status ≠ .tooLate x)
    (planInvalid : ∀ k x, status ≠ .planInvalid k x) : status.data = [] := by
  cases status with
  | pending e => exact absurd rfl (pending e)
  | version => exact absurd rfl version
  | badValue k => exact absurd rfl (badValue k)
  | tooLate x => exact absurd rfl (tooLate x)
  | planInvalid k x => exact absurd rfl (planInvalid k x)
  | _ => rfl

/-- The operation, its slot, its result and whether it compacted, in STORE_DONE's payload. -/
theorem Report.storeDone_bytes (op : StoreOp) (result : StoreResult) (compacted : Bool) :
    (Report.storeDone op result compacted).bytes =
      (match op with
        | .save i => [0x00#8, BitVec.ofNat 8 i.val]
        | .delete i => [0x01#8, BitVec.ofNat 8 i.val]
        | .bootSet (some i) => [0x02#8, BitVec.ofNat 8 i.val]
        | .bootSet none => [0x02#8, 0xFF#8]
        | .format => [0x03#8, 0xFF#8]) ++
        [if result = .done then 0x00#8 else 0x01#8, if compacted = true then 0x01#8 else 0x00#8] := by
  have results : be1 result.code = [if result = .done then 0x00#8 else 0x01#8] := by cases result <;> rfl
  rw [Report.bytes, yesNo_byte, results]
  cases op with
  | bootSet sel => cases sel <;> rfl
  | _ => rfl

theorem Report.halted_bytes (record : HaltRecord) :
    (Report.halted record).bytes =
      be1 record.cause.code ++ be4 record.cycle.toNat ++ be3 record.phase ++
        [(record.subject.map (BitVec.ofNat 8)).getD 0xFF#8] := by
  rw [← orFF_eq]
  rfl

theorem Report.startup_bytes (cause : ResetCause) (scan : ScanReport) (slot : Option (Fin 8)) (boot : BootResult)
    (auto : AutoResult) :
    (Report.startup cause scan slot boot auto).bytes =
      be1 cause.code ++ [if scan.readOnly = true then 0x01#8 else 0x00#8] ++ be2 scan.repairs ++ be2 scan.corrupt ++
        [if scan.formatted = true then 0x01#8 else 0x00#8] ++
        [(slot.map fun i => BitVec.ofNat 8 i.val).getD 0xFF#8] ++ be1 boot.code ++ be1 auto.code := by
  rw [Report.bytes, yesNo_byte, yesNo_byte, orFF_fin]

/-- A notice's body, from what its content gives: kind, subject, cycles and payload (R173). -/
theorem Notice.body_of {n : Notice} {content : Content} {kind : Nat} {subject : Byte} {cycles payload : List Byte}
    (is : n.content = content) (code : content.code = kind) (told : orFF content.subject = [subject])
    (bound : content.cycles = cycles) (carries : content.payload = payload) :
    n.body =
      [0x03#8] ++ be2 n.number ++ be1 kind ++ [subject] ++ be2 n.count ++ cycles ++ be2 n.origin ++ payload := by
  rw [Notice.body, is, code, told, bound, carries]
  rfl

/-- Settles O35: the arbiter by what waits, then the bodies item by item. -/
theorem arbiterServesRepliesFirst : Obligations.ArbiterServesRepliesFirst := by
  unfold Obligations.ArbiterServesRepliesFirst
  intro frame
  refine ⟨fun s => ⟨fun owner sent => State.arbitrate_sending, fun r rest => State.arbitrate_reply,
      fun before n after idle outbox opened entries sent unsent => ?_, fun idle outbox none => ?_⟩,
    fun r edges index cycle check subject => ?_, fun n => ?_⟩
  · rw [State.arbitrate_notice idle outbox, State.beginNotice_some (State.nextNotice_some opened entries sent unsent)]
    rfl
  · rw [State.arbitrate_notice idle outbox, State.beginNotice_none (State.nextNotice_none none)]
  · exact ⟨r.body_eq, rfl, rfl, rfl, rfl, rfl, rfl, rfl, rfl, rfl, rfl, Status.data_none, rfl⟩
  · intro is none8
    refine ⟨fun kind first last content => ?_, fun last content => Notice.body_of content rfl rfl rfl rfl,
      fun cause cycle phase subject content => Notice.body_of content rfl rfl rfl (Report.halted_bytes _),
      fun content => Notice.body_of content rfl rfl rfl rfl, fun cycle content => Notice.body_of content rfl rfl rfl rfl,
      fun op result compacted content => Notice.body_of content rfl rfl rfl (Report.storeDone_bytes op result compacted),
      fun cause scan slot boot auto content =>
        Notice.body_of content rfl rfl rfl (Report.startup_bytes cause scan slot boot auto)⟩
    refine ⟨?_, fun i => ?_, ?_, fun id => ?_, ?_, fun i => ?_⟩
    all_goals
      rintro rfl
      exact Notice.body_of content rfl rfl rfl rfl

end Sys2Proof.Machine

end

section
/-! The notice queue (chapter 10): what a raise does by its cases, and the acknowledgement. -/

-- The text is long enough that elaborating its proofs in threads of their own would exceed the memory limit.
set_option Elab.async false

namespace Sys2Proof.Machine

/-! ## Entries by their numbers, kinds and NOTICE_LOSS (R159, R160) -/

theorem Notice.holds_iff {kind : MergeKind} {n : Notice} :
    Notice.holds kind n = true ↔ ∃ first last, n.content = .merging kind first last := by
  unfold Notice.holds
  split
  next k first last content => simp [content, eq_comm]
  next other => simpa using fun first last content => other kind first last content

theorem Notice.isLoss_iff {n : Notice} : n.isLoss = true ↔ ∃ last, n.content = .loss last := by
  unfold Notice.isLoss
  split
  next last content => simp [content]
  next other => simpa using other

theorem Notice.mergeKind_of_holds {kind : MergeKind} {n : Notice} (holds : Notice.holds kind n = true) :
    n.mergeKind = some kind := by
  obtain ⟨first, last, content⟩ := Notice.holds_iff.mp holds
  rw [Notice.mergeKind, content]

/-- No two entries are of one merging kind and subject: the search finds the one there is (R159). -/
theorem Notices.ok.find_kind {q : Notices} (ok : q.ok) {kind : MergeKind} {before after : List Notice} {n : Notice}
    (entries : q.entries = before ++ n :: after) (holds : Notice.holds kind n = true) :
    q.entries.find? (Notice.holds kind) = some n := by
  obtain ⟨-, -, -, -, -, -, kinds⟩ := ok
  refine List.find?_eq_some_iff_append.mpr ⟨holds, before, after, entries, fun m mem => ?_⟩
  rw [entries, List.filterMap_append, List.filterMap_cons, Notice.mergeKind_of_holds holds] at kinds
  rw [Bool.not_eq_true', ← Bool.not_eq_true]
  obtain ⟨-, -, apart⟩ := List.nodup_append.mp kinds
  exact fun same => apart _ (List.mem_filterMap.mpr ⟨m, mem, Notice.mergeKind_of_holds same⟩) _ List.mem_cons_self rfl

/-- There is one NOTICE_LOSS at most: the search finds it (R159). -/
theorem Notices.ok.find_loss {q : Notices} (ok : q.ok) {before after : List Notice} {n : Notice}
    (entries : q.entries = before ++ n :: after) (loss : n.isLoss = true) : q.entries.find? Notice.isLoss = some n := by
  obtain ⟨-, -, -, -, -, one, -⟩ := ok
  refine List.find?_eq_some_iff_append.mpr ⟨loss, before, after, entries, fun m mem => ?_⟩
  rw [entries, List.filter_append, List.filter_cons_of_pos loss, List.length_append, List.length_cons] at one
  rw [Bool.not_eq_true', ← Bool.not_eq_true]
  intro same
  have := List.length_pos_of_mem (List.mem_filter.mpr ⟨mem, same⟩)
  omega

theorem Notices.find_kind_none {q : Notices} {kind : MergeKind}
    (none : ¬ ∃ n ∈ q.entries, ∃ first last, n.content = .merging kind first last) :
    q.entries.find? (Notice.holds kind) = Option.none :=
  List.find?_eq_none.mpr fun n mem holds => none ⟨n, mem, Notice.holds_iff.mp holds⟩

theorem Notices.find_loss_none {q : Notices} (none : ∀ n ∈ q.entries, n.isLoss = false) :
    q.entries.find? Notice.isLoss = Option.none :=
  List.find?_eq_none.mpr fun n mem => by simp [none n mem]

theorem Notices.hasPlace_iff (q : Notices) : q.hasPlace = true ↔ ¬ 16 ≤ (q.entries.filter fun n => !n.isLoss).length := by
  rw [Nat.not_le]
  exact decide_eq_true_iff

/-! ## Merging and adding (R161 to R163) -/

/-- A queue in form issues its fresh number (R160). -/
theorem Notices.ok.issues {q : Notices} (ok : q.ok) : q.issues q.fresh := by
  have few := ok.length
  obtain ⟨-, -, low, high, -⟩ := ok
  exact q.issues_fresh low high (by omega)

theorem Notices.ok.numberAfter_fresh {q : Notices} (ok : q.ok) : numberAfter q.fresh = q.fresh % 65535 + 1 :=
  numberAfter_mod ok.issues.range.2

/-- What an entry is replaced by stands in its place, no other carrying its number. -/
theorem map_at_number {before after : List Notice} {n : Notice}
    (distinct : ((before ++ n :: after).map Notice.number).Nodup) (merged : Notice) :
    ((before ++ n :: after).map fun m => if m.number = n.number then merged else m) = before ++ merged :: after := by
  simp only [List.map_append, List.map_cons, List.nodup_append, List.nodup_cons, List.mem_map] at distinct
  obtain ⟨-, ⟨later, -⟩, earlier⟩ := distinct
  rw [List.map_append, List.map_cons, if_pos rfl]
  congr 1
  · exact (List.map_congr_left (g := id) fun m mem =>
      if_neg (earlier m.number ⟨m, mem, rfl⟩ n.number List.mem_cons_self)).trans (List.map_id _)
  · congr 1
    exact (List.map_congr_left (g := id) fun m mem => if_neg fun same => later ⟨m, mem, same⟩).trans (List.map_id _)

/-- The entry that takes one more occurrence stands in its place, renumbered if its number has been shown (R161). -/
theorem Notices.ok.merge {q : Notices} (ok : q.ok) {before after : List Notice} {n : Notice}
    (entries : q.entries = before ++ n :: after) (content : Content) :
    Notices.merged before n after q (q.merge n content) content := by
  obtain ⟨distinct, -⟩ := id ok
  rw [entries] at distinct
  refine ⟨fun unshown => ?_, fun shown => ⟨q.fresh, ok.issues, ?_⟩⟩
  · simp [Notices.merge, entries, map_at_number distinct, unshown, satSucc]
  · simp [Notices.merge, entries, map_at_number distinct, shown, satSucc, ok.numberAfter_fresh]

/-- A new entry stands behind the others with a fresh number (R159, R160). -/
theorem Notices.ok.add {q : Notices} (ok : q.ok) (content : Content) (merges : Bool) :
    q.gained (q.add content merges) content merges :=
  ⟨q.fresh, ok.issues, by rw [Notices.add, ok.numberAfter_fresh]⟩

/-! ## A raise by its cases (R161 to R163) -/

theorem Notices.raise_merges {q : Notices} {kind : MergeKind} {n : Notice} {first last : W32} (cycle : W32)
    (found : q.entries.find? (Notice.holds kind) = some n) (content : n.content = .merging kind first last) :
    q.raise (.merging kind cycle) = q.merge n (.merging kind first cycle) := by
  rw [Notices.raise, found]
  dsimp only
  rw [content, Content.upTo]

theorem Notices.raise_adds {q : Notices} {kind : MergeKind} (cycle : W32)
    (none : q.entries.find? (Notice.holds kind) = Option.none) (place : q.hasPlace = true) :
    q.raise (.merging kind cycle) = q.add (.merging kind cycle cycle) true := by
  rw [Notices.raise, none]
  exact if_pos place

theorem Notices.raise_reports {q : Notices} (r : Report) (place : q.hasPlace = true) :
    q.raise (.report r) = q.add (.report r) false := if_pos place

/-- Without a place, an occurrence that merges into no entry goes to NOTICE_LOSS (R163). -/
theorem Notices.raise_loses {q : Notices} {o : Occurrence} (full : ¬ q.hasPlace = true)
    (new : (∃ r, o = .report r) ∨ ∃ kind cycle, o = .merging kind cycle ∧ q.entries.find? (Notice.holds kind) = none) :
    q.raise o = q.lose o := by
  obtain ⟨r, rfl⟩ | ⟨kind, cycle, rfl, none⟩ := new
  · exact if_neg full
  · rw [Notices.raise, none]
    exact if_neg full

/-! ## Acknowledgements (R140, R147, R166) -/

theorem Notices.carries_iff (q : Notices) (number : Nat) :
    q.carries number = true ↔ ∃ n ∈ q.entries, n.number = number := by
  simp [Notices.carries]

/-- An acknowledgement is taken when no other frame waits: the holding is empty then. -/
theorem State.takeAck_taken {s : State} {k : W16} (live : s.live = true)
    (own : ∀ f, s.link.waiting = some f → f.body = ackBody k) : s.takeAck k = s.cleared.acknowledge k.toNat := by
  rw [State.takeAck, if_pos live]
  split
  next free =>
    have cleared : s.cleared = s := by
      rw [State.cleared, ← free]
    rw [cleared]
  next f waits => exact if_pos (own f waits)

theorem State.takeAck_overrun {s : State} {k : W16} (live : s.live = true) {f : Frame} (waits : s.link.waiting = some f)
    (other : f.body ≠ ackBody k) : s.takeAck k = s.countLink fun c => { c with overrun := bump c.overrun } := by
  rw [State.takeAck, if_pos live, waits]
  exact (if_neg other).trans (State.offer_overrun (by simp [waits]) _)

theorem State.acknowledge_carried {s : State} {number : Nat} (carried : ∃ n ∈ s.notices.entries, n.number = number) :
    s.acknowledge number = { s with notices := s.notices.drop number } :=
  if_pos ((s.notices.carries_iff number).mpr carried)

theorem State.acknowledge_stale {s : State} {number : Nat} (stale : ∀ n ∈ s.notices.entries, n.number ≠ number) :
    s.acknowledge number = s.countLink fun c => { c with staleAck := bump c.staleAck } :=
  if_neg fun carries =>
    have ⟨n, mem, same⟩ := (s.notices.carries_iff number).mp carries
    stale n mem same

/-- Settles O32: a raise by its cases, and an acknowledgement by what waits and what the queue carries. -/
theorem noticesAreRaisedAndAcknowledged : Obligations.NoticesAreRaisedAndAcknowledged := by
  refine ⟨fun q ok => ?_, fun s k live => ?_⟩
  · intro full held
    have place : q.hasPlace = true ↔ ¬ full := q.hasPlace_iff
    refine ⟨fun kind cycle before n after first last entries content => ?_, fun kind cycle new room => ?_,
      fun r room => ?_, fun o noRoom new => ?_⟩
    · rw [Notices.raise_merges cycle (ok.find_kind entries (Notice.holds_iff.mpr ⟨first, last, content⟩)) content]
      exact ok.merge entries _
    · rw [Notices.raise_adds cycle (Notices.find_kind_none new) (place.mpr room)]
      exact ok.add _ _
    · rw [Notices.raise_reports r (place.mpr room)]
      exact ok.add _ _
    · have loses : q.raise o = q.lose o :=
        Notices.raise_loses (mt place.mp (not_not.mpr noRoom)) (new.imp_right fun ⟨kind, cycle, is, absent⟩ =>
          ⟨kind, cycle, is, Notices.find_kind_none absent⟩)
      refine ⟨fun before n after last entries content => ?_, fun none => ?_⟩
      · rw [loses, Notices.lose, ok.find_loss entries (Notice.isLoss_iff.mpr ⟨last, content⟩)]
        exact ok.merge entries _
      · rw [loses, Notices.lose, Notices.find_loss_none none]
        exact ok.add _ _
  · have runs : exec (.ack k) s = .next (s.takeAck k) := rfl
    refine ⟨fun own carried => ?_, fun own stale => ?_, fun f waits other => ?_⟩
    · rw [runs, State.takeAck_taken live own, State.acknowledge_carried (s := s.cleared) carried]
      rfl
    · rw [runs, State.takeAck_taken live own, State.acknowledge_stale (s := s.cleared) stale]
      rfl
    · rw [runs, State.takeAck_overrun live waits other]
      rfl

end Sys2Proof.Machine

end

section
/-! Taking requests (chapter 9): how long parameter bytes are, the gates before a request's owner, the waiting frame. -/

-- The text is long enough that elaborating its proofs in threads of their own would exceed the memory limit.
set_option Elab.async false

namespace Sys2Proof.Machine

/-! ## How long parameter bytes are (R172) -/

/-- A reader that takes a fixed number of bytes from the front. -/
def Takes {α : Type} (rd : List Byte → Option (α × List Byte)) (width : Nat) : Prop :=
  ∀ bs a r, rd bs = some (a, r) → bs.length = width + r.length

theorem read1_takes : Takes read1 1 := by
  intro bs n r read
  obtain ⟨-, rfl⟩ := read1_iff.mp read
  simp

theorem read2_takes : Takes read2 2 := by
  intro bs n r read
  obtain ⟨-, rfl⟩ := read2_iff.mp read
  simp

theorem read3_takes : Takes read3 3 := by
  intro bs n r read
  obtain ⟨-, rfl⟩ := read3_iff.mp read
  simp

theorem Takes.readBoth {α β : Type} {ra : List Byte → Option (α × List Byte)} {rb : List Byte → Option (β × List Byte)}
    {m n : Nat} (ha : Takes ra m) (hb : Takes rb n) : Takes (readBoth ra rb) (m + n) := by
  intro bs x r read
  simp only [Machine.readBoth, Option.bind_eq_some_iff, Option.map_eq_some_iff, Prod.mk.injEq, Prod.exists] at read
  obtain ⟨a, t, first, b, u, second, -, rfl⟩ := read
  rw [ha _ _ _ first, hb _ _ _ second, Nat.add_assoc]

/-- A present item takes its width, an absent one nothing. -/
theorem Takes.readIf {α : Type} {rd : List Byte → Option (α × List Byte)} {width : Nat} (h : Takes rd width)
    (present : Bool) : Takes (readIf present rd) (if present = true then width else 0) := by
  intro bs o r read
  cases present with
  | false => simp_all [Machine.readIf]
  | true =>
    simp only [Machine.readIf, if_true, Option.map_eq_some_iff, Prod.mk.injEq, Prod.exists] at read ⊢
    obtain ⟨a, t, inner, -, rfl⟩ := read
    exact h _ _ _ inner

/-- What a reader of fixed width reads with nothing left over is as long as the width. -/
theorem Takes.allRead {α : Type} {rd : List Byte → Option (α × List Byte)} {width : Nat} (h : Takes rd width)
    {bs : List Byte} {a : α} (read : allRead (rd bs) = some a) : bs.length = width := by
  obtain ⟨⟨a', r⟩, inner, rest⟩ := Option.bind_eq_some_iff.mp read
  split at rest
  next used =>
    obtain rfl : r = [] := used
    simpa using h _ _ _ inner
  next => cases rest

theorem readNothing_length {bs : List Byte} {p : Unit} (read : readNothing bs = some p) : bs.length = 0 := by
  unfold readNothing at read
  split at read
  next none => simp [none]
  next => cases read

theorem readRun_length {bs : List Byte} {n : Nat} (read : readRun bs = some n) : bs.length = 0 ∨ bs.length = 2 := by
  unfold readRun at read
  split at read
  next none => exact .inl (by simp [none])
  next => exact .inr (read2_takes.allRead read)

/-- The fields that a presence byte calls for, and no more (R26, R172). -/
theorem readSetCycle_fits {bs : List Byte} {c : SetCycle} (read : readSetCycle bs = some c) :
    presenceFits bs [1, 3, 3, 1, 1, 2, 1] := by
  simp only [readSetCycle, Option.bind_eq_bind, Option.bind_eq_some_iff, Prod.exists] at read
  obtain ⟨presence, r0, first, _, r1, h1, _, r2, h2, _, r3, h3, _, r4, h4, _, r5, h5, _, r6, h6, _, r7, h7, found⟩ := read
  split at found
  next whole =>
    obtain ⟨top, rfl⟩ := whole
    cases bs with
    | nil => cases first
    | cons b rest =>
      cases first
      have l1 := read1_takes.readIf _ _ _ _ h1
      have l2 := read3_takes.readIf _ _ _ _ h2
      have l3 := read3_takes.readIf _ _ _ _ h3
      have l4 := read1_takes.readIf _ _ _ _ h4
      have l5 := read1_takes.readIf _ _ _ _ h5
      have l6 := read2_takes.readIf _ _ _ _ h6
      have l7 := read1_takes.readIf _ _ _ _ h7
      refine ⟨b, r0, rfl, top, ?_⟩
      rw [l1, l2, l3, l4, l5, l6, l7]
      rfl
  next => cases found

theorem readSetPair_fits {bs : List Byte} {c : SetPair} (read : readSetPair bs = some c) :
    1 ≤ bs.length ∧ presenceFits (bs.drop 1) [1, 1] := by
  simp only [readSetPair, Option.bind_eq_bind, Option.bind_eq_some_iff, Prod.exists] at read
  obtain ⟨number, r0, first, presence, r1, second, _, r2, h1, _, r3, h2, found⟩ := read
  split at found
  next whole =>
    obtain ⟨top, rfl⟩ := whole
    obtain ⟨-, rfl⟩ := read1_iff.mp first
    cases r0 with
    | nil => cases second
    | cons b rest =>
      cases second
      have l1 := read1_takes.readIf _ _ _ _ h1
      have l2 := read1_takes.readIf _ _ _ _ h2
      refine ⟨by simp, b, r1, rfl, top, ?_⟩
      rw [l1, l2]
      rfl
  next => cases found

theorem readEntryAdd_fits {bs : List Byte} {e : RawEntry} (read : readEntryAdd bs = some e) :
    6 ≤ bs.length ∧ presenceFits (bs.drop 6) [2, 3, 2, 2] := by
  obtain ⟨⟨e', r⟩, inner, used⟩ := Option.bind_eq_some_iff.mp read
  split at used
  next none =>
    obtain rfl : r = [] := none
    simp only [readRawEntry, Option.bind_eq_bind, Option.bind_eq_some_iff, Prod.exists] at inner
    obtain ⟨id, r0, f1, offset, r1, f2, channel, r2, f3, action, r3, f4, presence, r4, f5, _, r5, h1, _, r6, h2,
      _, r7, h3, _, r8, h4, found⟩ := inner
    split at found
    next top =>
      cases found
      obtain ⟨-, rfl⟩ := read1_iff.mp f1
      obtain ⟨-, rfl⟩ := read3_iff.mp f2
      obtain ⟨-, rfl⟩ := read1_iff.mp f3
      obtain ⟨-, rfl⟩ := read1_iff.mp f4
      cases r3 with
      | nil => cases f5
      | cons b rest =>
        cases f5
        have l1 := read2_takes.readIf _ _ _ _ h1
        have l2 := (read1_takes.readBoth read2_takes).readIf _ _ _ _ h2
        have l3 := (read1_takes.readBoth read1_takes).readIf _ _ _ _ h3
        have l4 := (read1_takes.readBoth read1_takes).readIf _ _ _ _ h4
        refine ⟨by simp; omega, b, r4, rfl, top, ?_⟩
        rw [l1, l2, l3, l4]
        rfl
    next => cases found
  next => cases used

theorem readWindowAdd_length {bs : List Byte} {w : RawWindow} (read : readWindowAdd bs = some w) : bs.length = 10 := by
  obtain ⟨⟨w', r⟩, inner, used⟩ := Option.bind_eq_some_iff.mp read
  split at used
  next none =>
    obtain rfl : r = [] := none
    simp only [readRawWindow, Option.bind_eq_bind, Option.bind_eq_some_iff, Prod.exists] at inner
    obtain ⟨_, _, f1, _, _, f2, _, _, f3, _, _, f4, _, _, f5, _, _, f6, found⟩ := inner
    cases found
    rw [read1_takes _ _ _ f1, read1_takes _ _ _ f2, read1_takes _ _ _ f3, read3_takes _ _ _ f4, read3_takes _ _ _ f5,
      read1_takes _ _ _ f6]
    rfl
  next => cases used

theorem readSave_fits {bs : List Byte} {p : Nat × List Byte} (read : readSave bs = some p) :
    ∃ slot n name, bs = slot :: n :: name ∧ name.length = n.toNat := by
  unfold readSave at read
  split at read
  next slot n name =>
    split at read
    next length => exact ⟨slot, n, name, rfl, length⟩
    next => cases read
  next => cases read

theorem readHello_length {bs : List Byte} {p : Hello} (read : readHello bs = some p) : bs.length = 6 := by
  simp only [readHello, Option.bind_eq_bind, Option.bind_eq_some_iff, Prod.exists] at read
  obtain ⟨_, _, f1, _, _, f2, _, _, f3, _, r, f4, found⟩ := read
  split at found
  next none =>
    obtain rfl : r = [] := none
    rw [read1_takes _ _ _ f1, read2_takes _ _ _ f2, read2_takes _ _ _ f3, read1_takes _ _ _ f4]
    rfl
  next => cases found

/-- Every request of the catalogue is one operation whose reader takes parameter bytes of the right length alone (R172). -/
theorem requestOf_reads {code : Nat} {q : Req} {c : Instr} (known : requestOf code q = some c) :
    ∃ (π : Type) (read : List Byte → Option π) (owner : π → State → Answer),
      (∀ s, exec c s = requestStep code read owner q s) ∧ ∀ p, read q.params = some p → paramsFit code q.params := by
  unfold requestOf at known
  split at known
  all_goals cases known
  all_goals refine ⟨_, _, _, fun _ => rfl, fun p read => ?_⟩
  case h_1 => exact readRun_length read
  case h_4 => exact readSetCycle_fits read
  case h_5 | h_6 => exact readSetPair_fits read
  case h_7 => exact readEntryAdd_fits read
  case h_9 => exact readWindowAdd_length read
  case h_21 => exact (read1_takes.readBoth read2_takes).allRead read
  case h_26 => exact readSave_fits read
  case h_34 => exact readHello_length read
  case h_14 | h_15 | h_20 | h_28 => exact (read1_takes.readBoth read1_takes).allRead read
  case h_8 | h_10 | h_13 | h_19 | h_22 | h_23 | h_25 | h_27 | h_30 | h_37 | h_38 => exact read1_takes.allRead read
  all_goals exact readNothing_length read

/-! ## The gates before a request's owner (R140, R141, R147, R148) -/

/-- A request that the intake allows is taken: its frame leaves the holding (R147). -/
theorem State.takeRequest_taken {s : State} {code : Nat} {q : Req} (live : s.live = true) (admits : s.admits code q)
    (canTake : s.canTake = true) (handled : State → State) : s.takeRequest code q handled = handled s.cleared :=
  (if_pos live).trans ((if_pos (show _ ∨ _ from admits)).trans (if_pos canTake))

theorem State.takeRequest_waits {s : State} {code : Nat} {q : Req} (live : s.live = true) (admits : s.admits code q)
    (full : s.canTake = false) (handled : State → State) :
    s.takeRequest code q handled = { s with link := { s.link with waiting := some (requestFrame code q) } } :=
  (if_pos live).trans ((if_pos (show _ ∨ _ from admits)).trans (if_neg (by simp [full])))

theorem State.takeRequest_overrun {s : State} {code : Nat} {q : Req} {f : Frame} (live : s.live = true)
    (waits : s.link.waiting = some f) (other : f ≠ requestFrame code q) (handled : State → State) :
    s.takeRequest code q handled = s.countLink fun c => { c with overrun := bump c.overrun } := by
  have refused : ¬ (s.link.waiting = none ∨ s.link.waiting = some (requestFrame code q)) := by simp [waits, other]
  exact (if_pos live).trans ((if_neg refused).trans (State.offer_overrun (by simp [waits]) _))

theorem alwaysTaken_false {code : Nat} (hello : code ≠ 34) (status : code ≠ 36) : alwaysTaken code = false := by
  simp [alwaysTaken, hello, status]

/-- From `s`, a request has been answered with a status and no payload, and nothing else has changed (R148, R149). -/
def State.Refused (s : State) (code : Nat) (q : Req) (status : Status) (t : State) : Prop :=
  t.agrees s ∧ t.replied (replyTo code q status []) ∧ t.link.waiting = none

section Examined

variable {s : State} {code : Nat} {q : Req} {execute : State → Answer}

theorem State.cleared_send_refused (s : State) (code : Nat) (q : Req) (status : Status) :
    s.Refused code q status (s.cleared.send (replyTo code q status []) false) :=
  ⟨State.send_agrees _ _ _, State.send_replied _ _ _, State.send_waiting _ _ _⟩

theorem State.examine_starting (counts : alwaysTaken code = false) (starting : s.startup.stage ≠ .complete) :
    s.Refused code q .starting (s.cleared.examine code q execute) := by
  have sent : s.cleared.examine code q execute = s.cleared.send (replyTo code q .starting []) false :=
    if_pos ⟨starting, counts⟩
  exact sent ▸ s.cleared_send_refused code q .starting

theorem State.examine_noSession (counts : alwaysTaken code = false) (complete : s.startup.stage = .complete)
    (closed : s.session.isOpen = false) : s.Refused code q .noSession (s.cleared.examine code q execute) := by
  have sent : s.cleared.examine code q execute = s.cleared.send (replyTo code q .noSession []) false :=
    (if_neg fun starting => starting.1 complete).trans (if_pos ⟨closed, counts⟩)
  exact sent ▸ s.cleared_send_refused code q .noSession

/-- A request behind the gates and not in the cache is executed (R148). -/
theorem State.examine_executes
    (gated : alwaysTaken code = true ∨ s.startup.stage = .complete ∧ s.session.isOpen = true)
    (new : s.cachedReply code q = none) :
    s.cleared.examine code q execute = (execute (s.taken code q)).reply code q := by
  have started : ¬ (s.cleared.startup.stage ≠ .complete ∧ alwaysTaken code = false) := by
    rintro ⟨starting, counts⟩
    rcases gated with always | ⟨complete, -⟩
    · simp [counts] at always
    · exact starting complete
  have opened : ¬ (s.cleared.session.isOpen = false ∧ alwaysTaken code = false) := by
    rintro ⟨closed, counts⟩
    rcases gated with always | ⟨-, opened⟩
    · simp [counts] at always
    · exact nomatch opened.symm.trans closed
  have new' : s.cleared.cachedReply code q = none := new
  rw [State.examine, if_neg started, if_neg opened, new']
  rfl

/-- A request whose execution refuses is answered so. -/
theorem State.examine_refuses {status : Status}
    (gated : alwaysTaken code = true ∨ s.startup.stage = .complete ∧ s.session.isOpen = true)
    (new : s.cachedReply code q = none) (refuses : execute (s.taken code q) = refuse (s.taken code q) status) :
    s.Refused code q status (s.cleared.examine code q execute) := by
  obtain ⟨agrees, replied, waiting⟩ := (refuse (s.taken code q) status).reply_spec code q
  rw [State.examine_executes gated new, refuses]
  exact ⟨agrees.trans (s.taken_agrees code q), replied, waiting.trans (by simp [refuse])⟩

end Examined

theorem State.cachedReply_always {code : Nat} (always : alwaysTaken code = true) (s : State) (q : Req) :
    s.cachedReply code q = none := if_pos (.inl always)

/-- Parameter bytes that a reader cannot read are BAD_LENGTH (R148). -/
theorem executeWith_badLength {π : Type} {read : List Byte → Option π} {q : Req} (unread : read q.params = none)
    (owner : π → State → Answer) (s : State) : executeWith read owner q s = refuse s .badLength := by
  rw [executeWith, unread]
  rfl

/-! ## The waiting frame is taken (R147) -/

theorem State.takeFrame_mem_dueAll (s : State) (f : Frame) : .takeFrame f ∈ s.dueAll ↔ .takeFrame f ∈ s.frameDue := by
  have stage : Due.takeFrame f ∉ if s.runStageDue then [Due.runStage] else [] := by split <;> simp
  simp only [State.dueAll, State.cycleDue, State.linesDue, State.linkDue, State.opensDue, List.mem_append,
    List.mem_flatMap, mem_dueIf, reduceCtorEq, and_false, or_false, exists_false, false_or, stage]

theorem State.mem_frameDue {s : State} {f : Frame} (waits : s.link.waiting = some f) :
    .takeFrame f ∈ s.frameDue ↔ f.body.head? = some 0x04#8 ∨ s.canTake = true := by
  rw [State.frameDue, waits]
  dsimp only
  split <;> simp_all

/-- Two bytes spell the word that they are the halves of (R169). -/
theorem ofNat_fromBe (hi lo : Byte) : BitVec.ofNat 16 (fromBe [hi, lo]) = hi ++ lo := by
  have high := hi.isLt
  have low := lo.isLt
  apply BitVec.eq_of_toNat_eq
  rw [BitVec.toNat_append, ← Nat.shiftLeft_add_eq_or_of_lt low, Nat.shiftLeft_eq]
  simp only [fromBe, List.foldl_cons, List.foldl_nil, BitVec.toNat_ofNat]
  omega

theorem State.takeFrame_ack {s : State} {f : Frame} {hi lo : Byte} (body : f.body = [0x04#8, hi, lo]) :
    s.takeFrame f = exec (.ack (hi ++ lo)) s := by
  rw [State.takeFrame, body, ← ofNat_fromBe]
  exact if_pos rfl

/-- A request's frame is taken by the command of its code (R147, R148). -/
theorem State.takeFrame_known {s : State} {f : Frame} {tag code : Byte} {params : List Byte} {c : Instr}
    (body : f.body = 0x01#8 :: tag :: code :: params) (known : requestOf code.toNat ⟨tag, f.crc, params⟩ = some c) :
    s.takeFrame f = exec c s := by
  rw [State.takeFrame, body]
  exact (if_neg (by decide)).trans (by rw [known])

/-- A frame with a code outside the catalogue is taken and examined as any request is (R148). -/
theorem State.takeFrame_unknown {s : State} {f : Frame} {tag code : Byte} {params : List Byte}
    (body : f.body = 0x01#8 :: tag :: code :: params) (unknown : requestOf code.toNat ⟨tag, f.crc, params⟩ = none) :
    s.takeFrame f =
      .next
        (s.takeRequest code.toNat ⟨tag, f.crc, params⟩ fun t =>
          t.examine code.toNat ⟨tag, f.crc, params⟩ unknownOwner) := by
  rw [State.takeFrame, body]
  exact (if_neg (by decide)).trans (by rw [unknown])

theorem requestOf_unknown {code : Nat} (unknown : code = 0 ∨ 38 < code) (q : Req) : requestOf code q = none := by
  unfold requestOf
  split <;> first | rfl | omega

/-- The holding keeps the frame of the very request that its body spells (R171). -/
theorem requestFrame_spelled {f : Frame} {tag code : Byte} {params : List Byte}
    (body : f.body = 0x01#8 :: tag :: code :: params) : f = requestFrame code.toNat ⟨tag, f.crc, params⟩ := by
  obtain ⟨body', crc⟩ := f
  obtain rfl : body' = _ := body
  simp [requestFrame, requestBody, be1]

/-- Settles O30: the gates in their order, then the frame that waits. -/
theorem requestsAreGated : Obligations.RequestsAreGated := by
  refine ⟨fun s code q c known live => ?_, fun s f live waits => ?_⟩
  · obtain ⟨π, read, owner, step, fits⟩ := requestOf_reads known
    have taken (admits : s.admits code q) (canTake : s.canTake = true) :
        exec c s = .next (s.cleared.examine code q (executeWith read owner q)) :=
      (step s).trans (congrArg _ (State.takeRequest_taken live admits canTake _))
    have unread (bad : ¬ paramsFit code q.params) : read q.params = none :=
      Option.eq_none_iff_forall_ne_some.mpr fun p is => bad (fits p is)
    refine ⟨fun admits canTake hello status starting => ?_, fun admits canTake hello status complete closed => ?_,
      fun admits full => ?_, fun g waits other => ?_, fun ready bad => ?_, fun always admits canTake bad => ?_⟩
    · exact ⟨_, taken admits canTake, State.examine_starting (alwaysTaken_false hello status) starting⟩
    · exact ⟨_, taken admits canTake, State.examine_noSession (alwaysTaken_false hello status) complete closed⟩
    · exact (step s).trans (congrArg _ (State.takeRequest_waits live admits full _))
    · exact (step s).trans (congrArg _ (State.takeRequest_overrun live waits other _))
    · obtain ⟨-, complete, opened, canTake, admits, new⟩ := ready
      exact ⟨_, taken admits canTake,
        State.examine_refuses (.inr ⟨complete, opened⟩) new (executeWith_badLength (unread bad) owner _)⟩
    · have always : alwaysTaken code = true := decide_eq_true always
      exact ⟨_, taken admits canTake,
        State.examine_refuses (.inl always) (s.cachedReply_always always q) (executeWith_badLength (unread bad) owner _)⟩
  · refine ⟨(s.takeFrame_mem_dueAll f).trans (State.mem_frameDue waits), fun hi lo => State.takeFrame_ack,
      fun tag code params body => ?_⟩
    intro q answered
    refine ⟨fun c => State.takeFrame_known body, fun unknown canTake => ?_⟩
    have admits : s.admits code.toNat q := .inr (requestFrame_spelled body ▸ waits)
    have counts : alwaysTaken code.toNat = false := alwaysTaken_false (by omega) (by omega)
    have taken : s.takeDue (.takeFrame f) = .next (s.cleared.examine code.toNat q unknownOwner) :=
      (State.takeFrame_unknown body (requestOf_unknown unknown q)).trans
        (congrArg _ (State.takeRequest_taken live admits canTake _))
    exact ⟨fun starting => ⟨_, taken, State.examine_starting counts starting⟩,
      fun complete closed => ⟨_, taken, State.examine_noSession counts complete closed⟩,
      fun complete opened new => ⟨_, taken, State.examine_refuses (.inr ⟨complete, opened⟩) new rfl⟩⟩

end Sys2Proof.Machine

end

section
/-! Sessions, requests and replies (chapter 9): HELLO and the reply cache. -/

-- The text is long enough that elaborating its proofs in threads of their own would exceed the memory limit.
set_option Elab.async false

namespace Sys2Proof.Machine

/-! ## The queue of commands -/

/-- Settles O1: a step looks at the front of the queue first. -/
theorem stepRunsTheFrontCommand : Obligations.StepRunsTheFrontCommand := by
  intro c rest s front
  rw [step, front]

/-! ## HELLO (R153) -/

/-- The fields of a HELLO that opens a session (R153). -/
def Hello.opens (h : Hello) : Prop :=
  h.version = 1 ∧ 10 ≤ h.resend ∧ h.resend ≤ 5000 ∧ (h.lapseTime = 0 ∨ 100 ≤ h.lapseTime ∧ h.lapseTime ≤ 60000) ∧
    h.policy ≤ 1

theorem Policy.ofCode_getD {n : Nat} (range : n ≤ 1) :
    (Policy.ofCode n).getD .notify = if n = 0 then .notify else .halt := by
  obtain rfl | rfl : n = 0 ∨ n = 1 := by omega
  · rfl
  · rfl

theorem Hello.bad_eq_none (h : Hello) :
    h.bad = none ↔
      (10 ≤ h.resend ∧ h.resend ≤ 5000) ∧ (h.lapseTime = 0 ∨ 100 ≤ h.lapseTime ∧ h.lapseTime ≤ 60000) ∧
        h.policy ≤ 1 := by
  simp only [Hello.bad, firstBad, Option.map_eq_none_iff, List.find?_eq_none, List.forall_mem_cons, Bool.not_eq_true',
    Bool.not_eq_false, decide_eq_true_eq, Policy.ofCode_isSome, List.not_mem_nil, false_implies, implies_true, and_true]

theorem Hello.bad_resend {h : Hello} (resend : ¬ (10 ≤ h.resend ∧ h.resend ≤ 5000)) : h.bad = some 2 :=
  firstBad_eq_some (by simp) (by simpa using resend) (by simp; omega)

theorem Hello.bad_lapseTime {h : Hello} (resend : 10 ≤ h.resend ∧ h.resend ≤ 5000)
    (lapse : ¬ (h.lapseTime = 0 ∨ 100 ≤ h.lapseTime ∧ h.lapseTime ≤ 60000)) : h.bad = some 3 :=
  firstBad_eq_some (by simp) (by simpa using lapse) (by simp; omega)

theorem Hello.bad_policy {h : Hello} (resend : 10 ≤ h.resend ∧ h.resend ≤ 5000)
    (lapse : h.lapseTime = 0 ∨ 100 ≤ h.lapseTime ∧ h.lapseTime ≤ 60000) (policy : 1 < h.policy) : h.bad = some 4 :=
by
  have none : (Policy.ofCode h.policy).isSome = false :=
    Bool.eq_false_iff.mpr fun some => absurd (Policy.ofCode_isSome.mp some) (by omega)
  exact firstBad_eq_some (by simp) (by simp [none]) (by simp; omega)

theorem helloOwner_version {h : Hello} (version : h.version ≠ 1) (s : State) : helloOwner h s = refuse s .version :=
  if_pos version

theorem helloOwner_bad {h : Hello} {k : Nat} (version : h.version = 1) (bad : h.bad = some k) (s : State) :
    helloOwner h s = refuse s (.badValue k) := by
  simp [helloOwner, version, bad]

theorem helloOwner_opens {h : Hello} (opens : h.opens) (s : State) :
    helloOwner h s = ⟨s.openSession h, .ok, (s.openSession h).helloPayload, true⟩ := by
  obtain ⟨version, least, most, lapse, policy⟩ := opens
  have good : h.bad = none := h.bad_eq_none.mpr ⟨⟨least, most⟩, lapse, policy⟩
  simp [helloOwner, version, good]

/-- Every other HELLO is refused, and leaves the state as it is. -/
theorem helloOwner_refuses {h : Hello} (refused : ¬ h.opens) (s : State) : (helloOwner h s).state = s := by
  by_cases version : h.version = 1
  · cases bad : h.bad with
    | none =>
      obtain ⟨⟨least, most⟩, lapse, policy⟩ := h.bad_eq_none.mp bad
      exact absurd ⟨version, least, most, lapse, policy⟩ refused
    | some k => rw [helloOwner_bad version bad, refuse_state]
  · rw [helloOwner_version version, refuse_state]

/-- HELLO's parameter bytes are read as its four fields (R153, R172). -/
theorem readHello_fields {params : List Byte} {version resend lapse policy : Nat} (v : version ≤ 255)
    (r : resend ≤ 65535) (l : lapse ≤ 65535) (p : policy ≤ 255)
    (spelled : params = be1 version ++ be2 resend ++ be2 lapse ++ be1 policy) :
    readHello params = some ⟨version, resend, lapse, policy⟩ := by
  have first : read1 params = some (version, be2 resend ++ (be2 lapse ++ (be1 policy ++ []))) :=
    read1_iff.mpr ⟨by omega, by simp [spelled]⟩
  have second : read2 (be2 resend ++ (be2 lapse ++ (be1 policy ++ []))) = some (resend, be2 lapse ++ (be1 policy ++ [])) :=
    read2_iff.mpr ⟨by omega, rfl⟩
  have third : read2 (be2 lapse ++ (be1 policy ++ [])) = some (lapse, be1 policy ++ []) :=
    read2_iff.mpr ⟨by omega, rfl⟩
  have fourth : read1 (be1 policy ++ []) = some (policy, []) := read1_iff.mpr ⟨by omega, rfl⟩
  simp only [readHello, Option.bind_eq_bind, first, second, third, fourth, Option.bind_some, if_true]

/-- A reply that stands in the outbox first leaves the notices as they are: the arbiter begins none before it (R143,
R153). -/
theorem State.send_first_notices (s : State) (r : Reply) : (s.send r true).notices = s.notices := by
  have waits : (s.putReply r).link.outbox ≠ [] := by simp [State.putReply]
  have sent : s.send r true = (s.putReply r).arbitrate := rfl
  rw [sent]
  unfold State.arbitrate
  split
  · rfl
  · split
    · rfl
    · exact absurd ‹_› waits

theorem State.openSession_agrees (s : State) {h : Hello} (policy : h.policy ≤ 1) :
    (s.openSession h).agrees
      { s with
        session :=
          { s.session with
            isOpen := true, resend := h.resend, lapseTime := h.lapseTime,
            lapsePolicy := if h.policy = 0 then .notify else .halt,
            lapseTimer := if h.lapseTime = 0 then none else some 0 }
        notices := { s.notices with resend := h.resend } } := by
  have unmarked : (s.notices.reopened h.resend).entries.map Notice.unmarked = s.notices.entries.map Notice.unmarked := by
    rw [Notices.reopened, List.map_map]
    rfl
  rw [State.agrees, State.quiet, State.quiet, State.openSession, Policy.ofCode_getD policy]
  dsimp only
  rw [unmarked]
  rfl

theorem State.openSession_payload (s : State) (h : Hello) :
    (s.openSession h).helloPayload =
      [0x55#8, 0x51#8, 0x38#8, 0x34#8] ++ be1 (Config.revisionLessOne.val + 1) ++ be1 s.startup.cause.code ++
        be1 s.seq.mode.code ++ be1 s.store.status.code ++ be2 s.notices.entries.length := by
  simp [State.helloPayload, State.openSession, Notices.reopened]

theorem State.openSession_unsent (s : State) (h : Hello) : ∀ n ∈ (s.openSession h).notices.entries, n.sent = false := by
  intro n mem
  obtain ⟨m, -, rfl⟩ := List.mem_map.mp mem
  rfl

/-! ## What owners leave of the reply cache (R148, R151) -/

/-- An owner leaves the reply cache to the Request Handler. -/
def KeepsCache {π : Type} (owner : π → State → Answer) : Prop :=
  ∀ (p : π) (s : State), (owner p s).state.session.cache = s.session.cache

theorem edit_cache {s : State} {rest : Answer} (h : rest.state.session.cache = s.session.cache) (bad : Option Nat) :
    (edit s bad rest).state.session.cache = s.session.cache := by
  unfold edit
  (repeat' split) <;> simp [h]

theorem writing_cache {s : State} {rest : Answer} (h : rest.state.session.cache = s.session.cache) (bad : Option Nat) :
    (writing s bad rest).state.session.cache = s.session.cache := by
  unfold writing
  (repeat' split) <;> simp [h]

theorem heldIdle_cache {s taken : State} (h : taken.session.cache = s.session.cache) (i : Fin 8) :
    (heldIdle s i taken).state.session.cache = s.session.cache := by
  unfold heldIdle
  (repeat' split) <;> simp [h]

theorem runOwner_cache : KeepsCache runOwner := by
  intro count s
  unfold runOwner
  (repeat' split) <;> simp

theorem finishOwner_cache : KeepsCache finishOwner := by
  intro p s
  unfold finishOwner
  split <;> simp

theorem haltOwner_cache : KeepsCache haltOwner := by
  intro p s
  unfold haltOwner
  split <;> simp

theorem planSetCycleOwner_cache : KeepsCache planSetCycleOwner := fun _ _ => edit_cache (by rfl) _

theorem planSetChannelOwner_cache : KeepsCache planSetChannelOwner := by
  intro c s
  refine edit_cache ?_ _
  split <;> rfl

theorem planSetInputOwner_cache : KeepsCache planSetInputOwner := by
  intro c s
  refine edit_cache ?_ _
  split <;> rfl

theorem entryAddOwner_cache : KeepsCache entryAddOwner := by
  intro raw s
  unfold entryAddOwner
  (repeat' split) <;> rfl

theorem entryRemoveOwner_cache : KeepsCache entryRemoveOwner := by
  intro id s
  refine edit_cache ?_ _
  split <;> rfl

theorem windowAddOwner_cache : KeepsCache windowAddOwner := by
  intro raw s
  unfold windowAddOwner
  (repeat' split) <;> rfl

theorem windowRemoveOwner_cache : KeepsCache windowRemoveOwner := by
  intro id s
  refine edit_cache ?_ _
  split <;> rfl

theorem planCommitOwner_cache : KeepsCache planCommitOwner := by
  have commits (s : State) : s.commit.state.session.cache = s.session.cache := by
    unfold State.commit
    dsimp only
    split <;> rfl
  intro p s
  unfold planCommitOwner
  split
  · rfl
  · split
    · rfl
    · exact commits _

theorem planAbandonOwner_cache : KeepsCache planAbandonOwner := by
  intro p s
  unfold planAbandonOwner
  split <;> rfl

theorem channelHoldOwner_cache : KeepsCache channelHoldOwner := by
  intro c s
  unfold channelHoldOwner
  (repeat' split) <;> rfl

theorem channelSetOwner_cache : KeepsCache channelSetOwner := by
  intro f s
  unfold channelSetOwner
  split
  · rfl
  · rfl
  · exact heldIdle_cache (by rfl) _

theorem channelPulseOwner_cache : KeepsCache channelPulseOwner := by
  intro f s
  unfold channelPulseOwner
  split
  · rfl
  · split
    · rfl
    · exact heldIdle_cache (by rfl) _

theorem channelReleaseOwner_cache : KeepsCache channelReleaseOwner := by
  intro c s
  unfold channelReleaseOwner
  split <;> rfl

theorem captureReadOwner_cache : KeepsCache captureReadOwner := by
  intro n s
  unfold captureReadOwner
  split <;> rfl

theorem captureWatermarkOwner_cache : KeepsCache captureWatermarkOwner := by
  intro n s
  unfold captureWatermarkOwner
  split <;> simp

theorem profileSaveOwner_cache : KeepsCache profileSaveOwner := by
  intro f s
  refine writing_cache ?_ _
  split <;> simp

theorem profileDeleteOwner_cache : KeepsCache profileDeleteOwner := by
  intro n s
  unfold profileDeleteOwner
  split
  · rfl
  · refine writing_cache ?_ _
    split <;> simp

theorem bootSetOwner_cache : KeepsCache bootSetOwner := by
  have selects (s : State) (selected : Option (Fin 8)) (autoRun : Bool) :
      (s.selectBoot selected autoRun).state.session.cache = s.session.cache := by simp [State.selectBoot]
  intro f s
  unfold bootSetOwner
  split
  · rfl
  · refine writing_cache ?_ _
    split
    · exact selects s _ _
    · split
      · exact selects s _ _
      · rfl

theorem storeFormatOwner_cache : KeepsCache storeFormatOwner := by
  intro p s
  unfold storeFormatOwner
  (repeat' split) <;> simp

theorem profileLoadOwner_cache : KeepsCache profileLoadOwner := by
  intro n s
  have loads (e : DirEntry) : (s.loadEntry e).state.session.cache = s.session.cache := by
    unfold State.loadEntry
    split <;> rfl
  unfold profileLoadOwner
  split
  · rfl
  · split
    · rfl
    · split
      · rfl
      · split
        · rfl
        · exact loads _

theorem restartOwner_cache : KeepsCache restartOwner := by
  intro p s
  unfold restartOwner
  split <;> rfl

theorem countersClearOwner_cache : KeepsCache countersClearOwner := by
  intro n s
  unfold countersClearOwner
  split <;> simp

/-- A report leaves the cache with the rest of the state. -/
theorem KeepsCache.of_report {π : Type} {owner : π → State → Answer} (report : ∀ p s, (owner p s).state = s) :
    KeepsCache owner := fun p s => congrArg (fun t : State => t.session.cache) (report p s)

/-- Every request of the catalogue but HELLO leaves the reply cache to the Request Handler (R151, R153). -/
theorem requestOf_keepsCache {code : Nat} {q : Req} {c : Instr} (known : requestOf code q = some c) (other : code ≠ 34) :
    ∃ (π : Type) (read : List Byte → Option π) (owner : π → State → Answer),
      (∀ s, exec c s = requestStep code read owner q s) ∧ KeepsCache owner := by
  unfold requestOf at known
  split at known
  case h_34 => exact absurd rfl other
  all_goals cases known
  all_goals refine ⟨_, _, _, fun _ => rfl, ?_⟩
  case h_1 => exact runOwner_cache
  case h_2 => exact finishOwner_cache
  case h_3 => exact haltOwner_cache
  case h_4 => exact planSetCycleOwner_cache
  case h_5 => exact planSetChannelOwner_cache
  case h_6 => exact planSetInputOwner_cache
  case h_7 => exact entryAddOwner_cache
  case h_8 => exact entryRemoveOwner_cache
  case h_9 => exact windowAddOwner_cache
  case h_10 => exact windowRemoveOwner_cache
  case h_11 | h_12 => exact fun _ _ => edit_cache (by rfl) _
  case h_13 => exact .of_report planReadOwner_state
  case h_14 => exact .of_report entryListOwner_state
  case h_15 => exact .of_report windowListOwner_state
  case h_16 => exact .of_report planCheckOwner_state
  case h_17 => exact planCommitOwner_cache
  case h_18 => exact planAbandonOwner_cache
  case h_19 => exact channelHoldOwner_cache
  case h_20 => exact channelSetOwner_cache
  case h_21 => exact channelPulseOwner_cache
  case h_22 => exact channelReleaseOwner_cache
  case h_23 => exact captureReadOwner_cache
  case h_25 => exact captureWatermarkOwner_cache
  case h_26 => exact profileSaveOwner_cache
  case h_27 => exact profileDeleteOwner_cache
  case h_28 => exact bootSetOwner_cache
  case h_29 => exact storeFormatOwner_cache
  case h_30 => exact profileLoadOwner_cache
  case h_33 => exact restartOwner_cache
  case h_37 => exact .of_report countersReadOwner_state
  case h_38 => exact countersClearOwner_cache
  case h_24 | h_31 | h_32 | h_35 | h_36 => exact fun _ _ => rfl

theorem executeWith_cache {π : Type} {owner : π → State → Answer} (keeps : KeepsCache owner)
    (read : List Byte → Option π) (q : Req) (s : State) :
    (executeWith read owner q s).state.session.cache = s.session.cache := by
  unfold executeWith
  split
  · rfl
  · exact keeps _ s

/-! ## The reply cache (R150, R151) -/

theorem State.uncache_stored {s : State} {code : Nat} {q : Req} (stored : ¬ (alwaysTaken code = true ∨ q.tag = 0)) :
    (s.uncache code q).session.cache = s.session.cache.filter fun e => decide (e.tag ≠ q.tag) := by
  rw [State.uncache, if_neg stored]

theorem State.cacheReply_stored {s : State} {code : Nat} {q : Req} (stored : ¬ (alwaysTaken code = true ∨ q.tag = 0))
    (r : Reply) : (s.cacheReply code q r).session.cache = cacheWith s.session.cache ⟨q.tag, q.crc, r⟩ := by
  rw [State.cacheReply, if_neg stored]

/-- The reply cache once an answer is sent: the answer's own, with the reply stored (R151). -/
theorem Answer.reply_cache (x : Answer) (code : Nat) (q : Req) :
    (x.reply code q).session.cache = (x.state.cacheReply code q (replyTo code q x.status x.payload)).session.cache := by
  simp [Answer.reply]

/-- HELLO, STATUS and requests with tag 0 go past the cache (R151). -/
theorem Answer.reply_cache_unstored {code : Nat} {q : Req} (unstored : alwaysTaken code = true ∨ q.tag = 0) (x : Answer) :
    (x.reply code q).session.cache = x.state.session.cache := by
  rw [Answer.reply_cache, State.cacheReply, if_pos unstored]

theorem State.cachedReply_found {s : State} {code : Nat} {q : Req} {r : Reply}
    (stored : ¬ (alwaysTaken code = true ∨ q.tag = 0))
    (found : (s.session.cache.find? fun e => decide (e.tag = q.tag ∧ e.crc = q.crc)) = some ⟨q.tag, q.crc, r⟩) :
    s.cachedReply code q = some r := by
  rw [State.cachedReply, if_neg stored, found]
  rfl

/-- A request of the cache is answered by its entry, with the repeat flag (R150). -/
theorem State.examine_cached {s : State} {code : Nat} {q : Req} {r : Reply} (complete : s.startup.stage = .complete)
    (opened : s.session.isOpen = true) (cached : s.cachedReply code q = some r) (execute : State → Answer) :
    s.examine code q execute = s.send { r with repeated := true } false := by
  simp [State.examine, complete, opened, cached]

/-- A request that goes past the cache, or that is refused before it is looked up, is answered anew and leaves the cache as
it is (R148, R151). -/
theorem State.examine_uncached {s : State} {code : Nat} {q : Req} {execute : State → Answer}
    (past : (alwaysTaken code = true ∨ q.tag = 0) ∨ s.startup.stage ≠ .complete ∨ s.session.isOpen = false)
    (keeps : (execute s).state.session.cache = s.session.cache) :
    ∃ status payload, (s.examine code q execute).replied (replyTo code q status payload) ∧
      (s.examine code q execute).session.cache = s.session.cache := by
  unfold State.examine
  split
  · exact ⟨_, _, State.send_replied _ _ _, by simp⟩
  · rename_i started
    split
    · exact ⟨_, _, State.send_replied _ _ _, by simp⟩
    · rename_i admitted
      have unstored : alwaysTaken code = true ∨ q.tag = 0 := by
        rcases past with unstored | starting | closed
        · exact unstored
        · exact .inl (by simpa [starting] using started)
        · exact .inl (by simpa [closed] using admitted)
      have new : s.cachedReply code q = none := if_pos unstored
      have same : s.uncache code q = s := if_pos unstored
      rw [new, same]
      obtain ⟨-, replied, -⟩ := (execute s).reply_spec code q
      exact ⟨_, _, replied, (Answer.reply_cache_unstored unstored _).trans keeps⟩

/-- A request that the intake allows is examined by its reader and its owner (R147, R148). -/
theorem requestStep_taken {π : Type} {code : Nat} {read : List Byte → Option π} {owner : π → State → Answer} {q : Req}
    {c : Instr} {s : State} (step : ∀ s, exec c s = requestStep code read owner q s) (live : s.live = true)
    (admits : s.admits code q) (canTake : s.canTake = true) :
    exec c s = .next (s.cleared.examine code q (executeWith read owner q)) :=
  (step s).trans (congrArg Host.Outcome.next (State.takeRequest_taken live admits canTake _))

/-- What a HELLO leaves of the cache is what its owner leaves of it (R151, R153). -/
theorem exec_hello_cache {s : State} {q : Req} (live : s.live = true) (canTake : s.canTake = true) (admits : s.admits 34 q) :
    ∃ t, exec (.hello q) s = .next t ∧
      t.session.cache = (executeWith readHello helloOwner q s.cleared).state.session.cache := by
  have always : alwaysTaken 34 = true := rfl
  refine ⟨_, requestStep_taken (fun _ => rfl) live admits canTake, ?_⟩
  rw [State.examine_executes (.inl always) (s.cachedReply_always always q), Answer.reply_cache_unstored (.inl always)]
  rfl

/-! ## The two statements -/

/-- Settles O27: the owner's refusals in their order, else the session that it opens. -/
theorem helloOpensASession : Obligations.HelloOpensASession := by
  intro s q version resend lapse policy live canTake admits v r l p params
  have read := readHello_fields v r l p params
  have refused {status : Status} (refuses : helloOwner ⟨version, resend, lapse, policy⟩ s.cleared = refuse s.cleared status) :
      Answers (.hello q) s 34 q s status [] :=
    requestStep_always_answers (owner := helloOwner) rfl live canTake admits rfl read (by rw [refuses]; exact s.cleared_agrees)
      (by rw [refuses]; rfl) (by rw [refuses]; rfl) (by rw [refuses]; rfl)
  refine ⟨fun other => refused (helloOwner_version other _),
    fun one bad => refused (helloOwner_bad one (Hello.bad_resend bad) _),
    fun one least most nonzero bad => refused (helloOwner_bad one (Hello.bad_lapseTime ⟨least, most⟩ (by simp; omega)) _),
    fun one least most range bad => refused (helloOwner_bad one (Hello.bad_policy ⟨least, most⟩ range bad) _),
    fun one least most range low => ?_⟩
  have opens := helloOwner_opens (h := ⟨version, resend, lapse, policy⟩) ⟨one, least, most, range, low⟩ s.cleared
  have next := requestStep_always (owner := helloOwner) live canTake admits rfl read
  rw [opens] at next
  obtain ⟨agrees, replied, waiting⟩ :=
    (⟨s.cleared.openSession ⟨version, resend, lapse, policy⟩, .ok, _, true⟩ : Answer).reply_spec 34 q
  have payload := State.openSession_payload s.cleared ⟨version, resend, lapse, policy⟩
  refine ⟨_, Config.revisionLessOne.val + 1, next, by omega, by omega, waiting, payload ▸ replied,
    Answer.reply_cache_unstored (.inl rfl) _, ?_, agrees.trans (State.openSession_agrees s.cleared low)⟩
  simp only [Answer.reply, State.send_first_notices, State.cacheReply_keeps]
  exact State.openSession_unsent s.cleared _

/-- Settles O31: a request found in the cache, one that is stored, one that goes past the cache, and HELLO. -/
theorem repliesAreCachedAndResent : Obligations.RepliesAreCachedAndResent := by
  refine ⟨fun s code q c known hello status tagged => ?_, fun s code q c known live canTake admits past => ?_,
    fun s q live canTake admits => ?_⟩
  · obtain ⟨π, read, owner, step, keeps⟩ := requestOf_keepsCache known hello
    have stored : ¬ (alwaysTaken code = true ∨ q.tag = 0) := by
      rintro (always | untagged)
      · simp [alwaysTaken_false hello status] at always
      · exact tagged untagged
    refine ⟨fun r live complete opened canTake admits found => ?_, fun ready => ?_⟩
    · have cached : s.cleared.cachedReply code q = some r := State.cachedReply_found stored found
      refine ⟨_, requestStep_taken step live admits canTake, ?_⟩
      rw [State.examine_cached (s := s.cleared) complete opened cached]
      exact ⟨State.send_agrees _ _ _, by simp, State.send_replied _ _ _, State.send_waiting _ _ _⟩
    · obtain ⟨live, complete, opened, canTake, admits, new⟩ := ready
      have next := requestStep_taken step live admits canTake
      rw [State.examine_executes (.inr ⟨complete, opened⟩) new] at next
      obtain ⟨-, replied, -⟩ := (executeWith read owner q (s.taken code q)).reply_spec code q
      refine ⟨_, _, _, next, replied, ?_⟩
      have removed : (s.taken code q).session.cache = s.session.cache.filter fun e => decide (e.tag ≠ q.tag) :=
        State.uncache_stored stored
      rw [Answer.reply_cache, State.cacheReply_stored stored, executeWith_cache keeps, removed]
      rfl
  · have other : code ≠ 34 := by omega
    obtain ⟨π, read, owner, step, keeps⟩ := requestOf_keepsCache known other
    have uncached : (alwaysTaken code = true ∨ q.tag = 0) ∨ s.startup.stage ≠ .complete ∨ s.session.isOpen = false := by
      obtain status | ⟨-, untagged | refused⟩ := past
      · exact .inl (.inl (decide_eq_true (.inr status)))
      · exact .inl (.inr untagged)
      · exact .inr refused
    obtain ⟨status, payload, replied, cache⟩ := State.examine_uncached (s := s.cleared) uncached
      (executeWith_cache keeps read q s.cleared)
    exact ⟨_, status, payload, requestStep_taken step live admits canTake, replied, cache⟩
  · obtain ⟨t, next, cache⟩ := exec_hello_cache live canTake admits
    refine ⟨t, next, fun bad => ?_, fun version resend lapse policy v r l p params => ?_⟩
    · have unread : readHello q.params = none := Option.eq_none_iff_forall_ne_some.mpr fun h is => bad (readHello_length is)
      rw [cache, executeWith_badLength unread]
      rfl
    · have owned : executeWith readHello helloOwner q s.cleared = helloOwner ⟨version, resend, lapse, policy⟩ s.cleared := by
        rw [executeWith, readHello_fields v r l p params]
      rw [owned] at cache
      refine ⟨fun opens => ?_, fun refused => ?_⟩
      · rw [cache, helloOwner_opens (h := ⟨version, resend, lapse, policy⟩) opens]
        rfl
      · rw [cache, helloOwner_refuses (h := ⟨version, resend, lapse, policy⟩) refused]
        rfl

end Sys2Proof.Machine

end

section
/-! The notice queue over every step: in form under raises, marks, acknowledgements and resets (R159 to R166). -/

-- The text is long enough that elaborating its proofs in threads of their own would exceed the memory limit.
set_option Elab.async false

namespace Sys2Proof.Machine

/-! ## The entries' form (R159, R160) -/

/-- What the notice queue's form says of its entries. -/
structure EntriesOk (entries : List Notice) : Prop where
  distinct : (entries.map Notice.number).Nodup
  numbered : ∀ n ∈ entries, 1 ≤ n.number ∧ n.number ≤ 65535
  ordinary : (entries.filter fun n => !n.isLoss).length ≤ 16
  losses : (entries.filter Notice.isLoss).length ≤ 1
  kinds : (entries.filterMap Notice.mergeKind).Nodup

theorem Notices.ok_iff (q : Notices) : q.ok ↔ EntriesOk q.entries ∧ 1 ≤ q.next ∧ q.next ≤ 65535 :=
  ⟨fun ⟨distinct, numbered, low, high, ordinary, losses, kinds⟩ =>
      ⟨⟨distinct, numbered, ordinary, losses, kinds⟩, low, high⟩,
    fun ⟨⟨distinct, numbered, ordinary, losses, kinds⟩, low, high⟩ =>
      ⟨distinct, numbered, low, high, ordinary, losses, kinds⟩⟩

/-- An entry may stand beside others: its number is in range and none of theirs, and there is a place for its kind. -/
structure Notice.Fits (e : Notice) (others : List Notice) : Prop where
  fresh : ∀ n ∈ others, n.number ≠ e.number
  numbered : 1 ≤ e.number ∧ e.number ≤ 65535
  ordinary : e.isLoss = false → (others.filter fun n => !n.isLoss).length < 16
  loss : e.isLoss = true → ∀ n ∈ others, n.isLoss = false
  kind : ∀ k, e.mergeKind = some k → ∀ n ∈ others, n.mergeKind ≠ some k

/-- A queue in form without one of its entries is in form, and the entry fits it. -/
theorem entriesOk_cons {e : Notice} {others : List Notice} :
    EntriesOk (e :: others) ↔ EntriesOk others ∧ e.Fits others := by
  have numbers : ((e :: others).map Notice.number).Nodup ↔
      (∀ n ∈ others, n.number ≠ e.number) ∧ (others.map Notice.number).Nodup := by simp
  have ordinary : ((e :: others).filter fun n => !n.isLoss).length ≤ 16 ↔
      (others.filter fun n => !n.isLoss).length ≤ 16 ∧
        (e.isLoss = false → (others.filter fun n => !n.isLoss).length < 16) := by
    cases loss : e.isLoss <;> simp [loss]
    omega
  have losses : ((e :: others).filter Notice.isLoss).length ≤ 1 ↔
      (others.filter Notice.isLoss).length ≤ 1 ∧ (e.isLoss = true → ∀ n ∈ others, n.isLoss = false) := by
    cases loss : e.isLoss <;> simp [loss]
    intro none
    rw [List.filter_eq_nil_iff.mpr (by simpa using none)]
    exact Nat.zero_le 1
  have kinds : ((e :: others).filterMap Notice.mergeKind).Nodup ↔
      (∀ k, e.mergeKind = some k → ∀ n ∈ others, n.mergeKind ≠ some k) ∧
        (others.filterMap Notice.mergeKind).Nodup := by
    cases kind : e.mergeKind <;> simp [kind]
  constructor
  · intro ok
    obtain ⟨fresh, distinct⟩ := numbers.mp ok.distinct
    obtain ⟨number, numbered⟩ := List.forall_mem_cons.mp ok.numbered
    obtain ⟨few, place⟩ := ordinary.mp ok.ordinary
    obtain ⟨one, alone⟩ := losses.mp ok.losses
    obtain ⟨kind, kinded⟩ := kinds.mp ok.kinds
    exact ⟨⟨distinct, numbered, few, one, kinded⟩, fresh, number, place, alone, kind⟩
  · rintro ⟨⟨distinct, numbered, few, one, kinded⟩, fresh, number, place, alone, kind⟩
    exact ⟨numbers.mpr ⟨fresh, distinct⟩, List.forall_mem_cons.mpr ⟨number, numbered⟩,
      ordinary.mpr ⟨few, place⟩, losses.mpr ⟨one, alone⟩, kinds.mpr ⟨kind, kinded⟩⟩

theorem EntriesOk.perm {es es' : List Notice} (ok : EntriesOk es) (h : es.Perm es') : EntriesOk es' where
  distinct := (h.map _).nodup_iff.mp ok.distinct
  numbered n mem := ok.numbered n (h.mem_iff.mpr mem)
  ordinary := (h.filter _).length_eq ▸ ok.ordinary
  losses := (h.filter _).length_eq ▸ ok.losses
  kinds := (h.filterMap _).nodup_iff.mp ok.kinds

/-- Where an entry stands does not matter. -/
theorem entriesOk_middle {before after : List Notice} {e : Notice} :
    EntriesOk (before ++ e :: after) ↔ EntriesOk (before ++ after) ∧ e.Fits (before ++ after) :=
  ⟨fun ok => entriesOk_cons.mp (ok.perm List.perm_middle),
    fun ok => (entriesOk_cons.mpr ok).perm List.perm_middle.symm⟩

theorem EntriesOk.sublist {es es' : List Notice} (ok : EntriesOk es) (h : es'.Sublist es) : EntriesOk es' where
  distinct := ok.distinct.sublist (h.map _)
  numbered n mem := ok.numbered n (h.subset mem)
  ordinary := (h.filter _).length_le.trans ok.ordinary
  losses := (h.filter _).length_le.trans ok.losses
  kinds := ok.kinds.sublist (h.filterMap _)

@[simp] theorem Notice.unmarked_number (n : Notice) : n.unmarked.number = n.number := rfl

/-- The form does not look at the marks that sending sets. -/
theorem entriesOk_unmarked {es : List Notice} : EntriesOk (es.map Notice.unmarked) ↔ EntriesOk es := by
  have same (p : Notice → Bool) (unseen : p ∘ Notice.unmarked = p) :
      ((es.map Notice.unmarked).filter p).length = (es.filter p).length := by
    rw [List.filter_map, List.length_map, unseen]
  have numbers : (es.map Notice.unmarked).map Notice.number = es.map Notice.number := List.map_map
  have kinds : (es.map Notice.unmarked).filterMap Notice.mergeKind = es.filterMap Notice.mergeKind := List.filterMap_map
  have ordinary := same (fun n => !n.isLoss) rfl
  have losses := same Notice.isLoss rfl
  constructor <;> rintro ⟨distinct, numbered, few, one, kinded⟩
  · exact ⟨numbers ▸ distinct, by simpa using numbered, ordinary ▸ few, losses ▸ one, kinds ▸ kinded⟩
  · exact ⟨numbers ▸ distinct, by simpa using numbered, ordinary ▸ few, losses ▸ one, kinds ▸ kinded⟩

/-! ## Marks and acknowledgements (R153, R164 to R166) -/

/-- Queues that are alike but for the marks of sending are in form together. -/
theorem Notices.like.ok {q q' : Notices} (h : q'.like q) (ok : q.ok) : q'.ok := by
  obtain ⟨entries, next, -⟩ := h
  rw [Notices.ok_iff, ← entriesOk_unmarked] at ok ⊢
  rwa [entries, next]

/-- Marking entries leaves the queue in form, whatever the resend interval is. -/
theorem Notices.ok.marked {q : Notices} (ok : q.ok) {f : Notice → Notice} (marks : ∀ n, (f n).unmarked = n.unmarked)
    (resend : Nat) : Notices.ok ⟨q.entries.map f, q.next, resend⟩ := by
  have unseen : (q.entries.map f).map Notice.unmarked = q.entries.map Notice.unmarked :=
    List.map_map.trans (List.map_congr_left fun n _ => marks n)
  rw [Notices.ok_iff, ← entriesOk_unmarked] at ok ⊢
  rwa [unseen]

theorem Notices.ok.change {q : Notices} (ok : q.ok) (number : Nat) {f : Notice → Notice}
    (marks : ∀ n, (f n).unmarked = n.unmarked) : (q.change number f).ok :=
  ok.marked (fun n => by split; exacts [marks n, rfl]) q.resend

theorem Notices.ok.drop {q : Notices} (ok : q.ok) (number : Nat) : (q.drop number).ok := by
  rw [Notices.ok_iff] at ok ⊢
  exact ok.imp_left fun form => form.sublist List.filter_sublist

/-! ## Raises (R161 to R163) -/

theorem Notice.mergeKind_iff {n : Notice} {kind : MergeKind} : n.mergeKind = some kind ↔ Notice.holds kind n = true := by
  refine ⟨fun same => ?_, Notice.mergeKind_of_holds⟩
  unfold Notice.mergeKind at same
  split at same
  next content =>
    cases same
    exact Notice.holds_iff.mpr ⟨_, _, content⟩
  next => cases same

/-- Where an entry fits, another of its kind with a fresh number does. -/
theorem Notice.Fits.renumbered {e e' : Notice} {others : List Notice} (fits : e.Fits others)
    (fresh : ∀ n ∈ others, n.number ≠ e'.number) (numbered : 1 ≤ e'.number ∧ e'.number ≤ 65535)
    (loss : e'.isLoss = e.isLoss) (kind : e'.mergeKind = e.mergeKind) : e'.Fits others where
  fresh := fresh
  numbered := numbered
  ordinary := loss ▸ fits.ordinary
  loss := loss ▸ fits.loss
  kind := kind ▸ fits.kind

theorem nextNumber_range (k : Nat) : 1 ≤ k % 65535 + 1 ∧ k % 65535 + 1 ≤ 65535 := by omega

/-- A merge that leaves the entry's kind keeps the queue in form, under the old number and under a new one (R161). -/
theorem Notices.ok.merge_ok {q : Notices} (ok : q.ok) {n : Notice} (mem : n ∈ q.entries) {content : Content}
    (loss : { n with content := content }.isLoss = n.isLoss)
    (kind : { n with content := content }.mergeKind = n.mergeKind) : (q.merge n content).ok := by
  obtain ⟨before, after, entries⟩ := List.append_of_mem mem
  obtain ⟨unshown, shown⟩ := ok.merge entries content
  obtain ⟨form, low, high⟩ := q.ok_iff.mp ok
  rw [entries, entriesOk_middle] at form
  obtain ⟨others, fits⟩ := form
  rw [Notices.ok_iff]
  cases shows : n.shown with
  | false =>
    rw [unshown shows]
    exact ⟨entriesOk_middle.mpr ⟨others, fits.renumbered fits.fresh fits.numbered loss kind⟩, low, high⟩
  | true =>
    obtain ⟨k, issued, merged⟩ := shown shows
    obtain ⟨_, -, free, -⟩ := id issued
    have fresh : ∀ m ∈ before ++ after, m.number ≠ k := fun m mem =>
      free m (entries ▸ List.mem_append.mpr ((List.mem_append.mp mem).imp_right (List.mem_cons_of_mem n)))
    rw [merged]
    exact ⟨entriesOk_middle.mpr ⟨others, fits.renumbered fresh issued.range loss kind⟩, nextNumber_range k⟩

/-- A new entry keeps the queue in form if there is a place for its kind (R159, R161 to R163). -/
theorem Notices.ok.add_ok {q : Notices} (ok : q.ok) {content : Content} {merges : Bool}
    (ordinary : (¬ ∃ last, content = .loss last) → q.hasPlace = true)
    (loss : (∃ last, content = .loss last) → ∀ n ∈ q.entries, n.isLoss = false)
    (kind : ∀ k first last, content = .merging k first last → ∀ n ∈ q.entries, ¬ Notice.holds k n = true) :
    (q.add content merges).ok := by
  obtain ⟨k, issued, added⟩ := ok.add content merges
  obtain ⟨_, -, free, -⟩ := id issued
  obtain ⟨form, -⟩ := q.ok_iff.mp ok
  rw [added, Notices.ok_iff]
  refine ⟨entriesOk_middle.mpr ⟨by rwa [List.append_nil], ?_⟩, nextNumber_range k⟩
  rw [List.append_nil]
  exact
    { fresh := free
      numbered := issued.range
      ordinary := fun other => 
        Nat.not_le.mp (q.hasPlace_iff.mp (ordinary fun is =>
          Bool.false_ne_true (other.symm.trans (Notice.isLoss_iff.mpr is))))
      loss := fun is => loss (Notice.isLoss_iff.mp is)
      kind := fun k is n mem same => by
        obtain ⟨first, last, is⟩ := Notice.holds_iff.mp (Notice.mergeKind_iff.mp is)
        exact kind k first last is n mem (Notice.mergeKind_iff.mp same) }

/-- NOTICE_LOSS takes what finds no place, and there is one of it at most (R163). -/
theorem Notices.ok.lose {q : Notices} (ok : q.ok) (o : Occurrence) : (q.lose o).ok := by
  unfold Notices.lose
  split
  next n found =>
    obtain ⟨last, content⟩ := Notice.isLoss_iff.mp (List.find?_some found)
    refine ok.merge_ok (List.mem_of_find?_eq_some found) ?_ ?_
    · simp [Notice.isLoss, content]
    · simp [Notice.mergeKind, content]
  next none =>
    exact ok.add_ok (fun other => absurd ⟨_, rfl⟩ other) (fun _ n mem => by simpa using List.find?_eq_none.mp none n mem)
      nofun

/-- A raise keeps the queue in form (R159 to R163). -/
theorem Notices.ok.raise {q : Notices} (ok : q.ok) (o : Occurrence) : (q.raise o).ok := by
  cases o with
  | merging kind cycle =>
    unfold Notices.raise
    dsimp only
    split
    next n found =>
      obtain ⟨first, last, content⟩ := Notice.holds_iff.mp (List.find?_some found)
      refine ok.merge_ok (List.mem_of_find?_eq_some found) ?_ ?_
      · simp [Notice.isLoss, content, Content.upTo]
      · simp [Notice.mergeKind, content, Content.upTo]
    next none =>
      split
      next place =>
        refine ok.add_ok (fun _ => place) nofun ?_
        rintro k first last ⟨⟩
        exact List.find?_eq_none.mp none
      next => exact ok.lose _
  | report r =>
    unfold Notices.raise
    dsimp only
    split
    next place => exact ok.add_ok (fun _ => place) nofun nofun
    next => exact ok.lose _

/-! ## What keeps the queue in form -/

/-- From one state to another the notice queue stays in form. -/
def State.NoticesKept (s t : State) : Prop := s.notices.ok → t.notices.ok

theorem State.NoticesKept.refl (s : State) : s.NoticesKept s := id

theorem State.NoticesKept.trans {s t u : State} (h : s.NoticesKept t) (h' : t.NoticesKept u) : s.NoticesKept u := h' ∘ h

/-- A happening that leaves the notices alone. -/
theorem State.NoticesKept.of_same {s t : State} (notices : t.notices = s.notices := by simp) : s.NoticesKept t := by
  unfold State.NoticesKept
  rw [notices]
  exact id

theorem State.NoticesKept.of_agrees {s t : State} (h : t.agrees s) : s.NoticesKept t := h.notices.ok

theorem State.raise_noticesKept (s : State) (o : Occurrence) : s.NoticesKept (s.raise o) := fun ok => ok.raise o

theorem State.NoticesKept.raised {s t : State} (h : s.NoticesKept t) (o : Occurrence) : s.NoticesKept (t.raise o) :=
  h.trans (t.raise_noticesKept o)

theorem State.NoticesKept.arbitrated {s t : State} (h : s.NoticesKept t) : s.NoticesKept t.arbitrate :=
  h.trans (.of_agrees t.arbitrate_agrees)

theorem State.NoticesKept.foldl {α : Type} {f : State → α → State} (h : ∀ (s : State) a, s.NoticesKept (f s a))
    (l : List α) (s : State) : s.NoticesKept (l.foldl f s) := by
  induction l generalizing s with
  | nil => exact .refl s
  | cons a l ih => exact (h s a).trans (ih _)

/-- A reset leaves the queue empty, its next number 1 (R123, R159, R160). -/
theorem State.resetBy_noticesKept (s : State) (cause : ResetCause) (torn : List Host.Cell) (powered : Bool) :
    s.NoticesKept (s.resetBy cause torn powered) :=
  fun _ => show Notices.ok ⟨[], 1, 250⟩ by simp [Notices.ok]

/-! ## Halts, cycle starts and the end of a cycle (R5 to R7, R16) -/

theorem State.swapNotices_ok (s : State) {q : Notices} (ok : q.ok) (cycle : Option W32) : (s.swapNotices q cycle).ok := by
  unfold State.swapNotices
  split
  · exact ok.raise _
  · exact ok

theorem State.cycleStart_noticesKept (s : State) : s.NoticesKept s.cycleStart := fun ok =>
  s.cycleStart_notices ▸ s.swapNotices_ok ok _

theorem State.enterHalted_noticesKept (s : State) (cause : HaltCause) (phase : Nat) (subject : Option Nat) :
    s.NoticesKept (s.enterHalted cause phase subject) := fun ok =>
  s.enterHalted_notices cause phase subject ▸ (s.swapNotices_ok ok none).raise _

theorem State.startRun_noticesKept (s : State) (count : Nat) : s.NoticesKept (s.startRun count) := by
  cases source : s.block.source with
  | internal =>
    rw [State.startRun_internal source]
    exact State.NoticesKept.trans (t := { s with seq := s.seq.ranFor count }) (.of_same rfl)
      (State.cycleStart_noticesKept _)
  | triggered =>
    rw [State.startRun_triggered source]
    exact .of_same rfl

theorem State.closeAndReport_noticesKept (s : State) (phase : Nat) : s.NoticesKept (s.closeAndReport phase) := by
  have closed : s.NoticesKept (s.closeWindows phase) :=
    State.NoticesKept.trans (t := { s with monitor := s.monitor.close phase }) (.of_same rfl)
      (.foldl (fun t _ => t.raise_noticesKept _) _ _)
  have reports (u : State) (w : Window) : u.NoticesKept (u.missReport w) := by
    unfold State.missReport
    split
    · exact u.enterHalted_noticesKept _ _ _
    · exact .refl u
  exact closed.trans (.foldl reports _ _)

theorem State.endCycle_noticesKept (s : State) : s.NoticesKept s.endCycle := by
  have after (u : State) : u.NoticesKept u.afterCloses := by
    let left : State := { u with monitor := { u.monitor with inProgress := false } }
    have ended : u.NoticesKept left := .of_same rfl
    unfold State.afterCloses
    dsimp only
    split
    · exact ended.trans (left.enterHalted_noticesKept _ _ _)
    · split
      · exact ended.trans (left.enterHalted_noticesKept _ _ _)
      · split
        · exact ended.trans left.cycleStart_noticesKept
        · exact ended.trans (.of_same rfl)
  have closed := s.closeAndReport_noticesKept s.block.length
  unfold State.endCycle
  dsimp only
  split
  · exact closed.trans (after _)
  · exact closed

/-! ## Input edges (R8 to R10, R77) -/

theorem State.cut_noticesKept (s : State) : s.NoticesKept s.cut := by
  have cut : s.NoticesKept s.cutFrom := fun ok => ok.raise _
  rw [State.cut_eq]
  split
  · exact cut.trans (s.cutFrom.enterHalted_noticesKept _ _ _)
  · split
    · exact cut.trans (s.cutFrom.enterHalted_noticesKept _ _ _)
    · exact cut.trans s.cutFrom.cycleStart_noticesKept

theorem State.controllerTakes_noticesKept (s : State) (i : Fin 4) (d : Slope) :
    s.NoticesKept (s.controllerTakes i d) := by
  unfold State.controllerTakes
  split
  · exact .refl s
  · exact s.cycleStart_noticesKept
  · exact State.NoticesKept.raised (t := s.countEarly i) (.of_same rfl) _
  · exact s.cut_noticesKept
  · exact s.cut_noticesKept

theorem State.record_noticesKept (s : State) (r : CaptureRecord) : s.NoticesKept (s.record r) := by
  unfold State.record
  split
  · dsimp only
    split
    · exact State.NoticesKept.raised (t := { s with captures := s.captures.store r }) (.of_same rfl) _
    · exact .of_same rfl
  · exact State.NoticesKept.raised (t := { s with captures := s.captures.dropOne r.input }) (.of_same rfl) _

theorem State.captureEdge_noticesKept (before s : State) (i : Fin 4) (d : Slope) (window : Option Nat) :
    s.NoticesKept (State.captureEdge before s i d window) := by
  unfold State.captureEdge
  split
  · exact s.record_noticesKept _
  · exact .refl s

theorem State.inputEdges_noticesKept (s : State) (i : Fin 4) (d : Slope) : s.NoticesKept (s.inputEdges i d) := by
  let settled : State := { s.onInput i Filter.settle with choices := s.choices + 1 }
  have led (first : Bool) : settled.NoticesKept (settled.ledBy i d first) := by
    cases first with
    | true =>
      exact State.NoticesKept.trans (t := settled.monitorTakes i d) (.of_same rfl)
        (State.controllerTakes_noticesKept _ i d)
    | false => exact (settled.controllerTakes_noticesKept i d).trans (.of_same rfl)
  obtain ⟨window, taken⟩ := settled.takeInputEdge_eq i d (Config.monitorFirst s.choices)
  have takes : settled.NoticesKept (settled.takeInputEdge i d (Config.monitorFirst s.choices)) := by
    rw [taken]
    exact (led _).trans (State.captureEdge_noticesKept _ _ _ _ _)
  exact State.NoticesKept.trans (t := settled) (.of_same rfl) takes

/-! ## Timers, lines and frames (R11, R71, R124, R142, R155, R164 to R166) -/

theorem State.lapses_noticesKept (s : State) : s.NoticesKept s.lapses := by
  have closed : s.NoticesKept s.closeSession := .of_same
  unfold State.lapses
  dsimp only
  split
  · exact closed.trans (State.enterHalted_noticesKept _ _ _ _)
  · exact closed

theorem State.stops_noticesKept (s : State) : s.NoticesKept s.stops := by
  have quiet : s.NoticesKept (s.settleStop.onChannels Channel.stopped) := .of_same
  unfold State.stops
  dsimp only
  split
  · exact quiet.trans (State.enterHalted_noticesKept _ _ _ _)
  · exact quiet

theorem State.starves_noticesKept (s : State) : s.NoticesKept s.starves := by
  have told : s.NoticesKept (State.raise { s with seq := { s.seq with wait := none } } (.merging .starved s.seq.cycle)) :=
    fun ok => ok.raise _
  unfold State.starves
  dsimp only
  split
  · exact told
  · exact told.trans (State.enterHalted_noticesKept _ _ _ _)

theorem State.resends_noticesKept (s : State) (number : Nat) : s.NoticesKept (s.resends number) := fun ok =>
  ok.change number fun _ => rfl

theorem State.frameLeft_noticesKept (s : State) (owner : TxOwner) : s.NoticesKept (s.frameLeft owner) := by
  cases owner with
  | notice number => exact fun ok => ok.change number fun n => by unfold Notice.frameEnded; split <;> rfl
  | reply code status =>
    have counted : s.NoticesKept (s.countLink fun c => { c with repliesSent := bump c.repliesSent }) := .of_same rfl
    unfold State.frameLeft State.replyLeft
    dsimp only
    split
    · exact .of_same rfl
    · split
      · exact counted.trans (State.resetBy_noticesKept _ _ _ _)
      · exact counted

theorem State.acknowledge_noticesKept (s : State) (number : Nat) : s.NoticesKept (s.acknowledge number) := by
  unfold State.acknowledge
  split
  · exact fun ok => ok.drop number
  · exact .of_same rfl

theorem State.takeAck_noticesKept (s : State) (number : W16) : s.NoticesKept (s.takeAck number) := by
  unfold State.takeAck
  split
  · split
    · exact s.acknowledge_noticesKept _
    · split
      · exact State.NoticesKept.trans (t := s.cleared) (.of_same rfl) (State.acknowledge_noticesKept _ _)
      · exact .of_same
  · exact .refl s

theorem State.tick_noticesKept (s : State) : s.NoticesKept s.tick := fun ok =>
  ok.marked (f := Notice.tick) (fun _ => rfl) s.notices.resend

/-! ## The store and start-up (R106, R131) -/

theorem State.stepVerified_noticesKept (s : State) (job : Job) (step : MediaStep) (rest : List MediaStep) :
    s.NoticesKept (s.stepVerified job step rest) := by
  unfold State.stepVerified
  dsimp only
  split
  · exact fun ok => ok.raise _
  · exact .of_same rfl

theorem State.stepFailed_noticesKept (s : State) (job : Job) : s.NoticesKept (s.stepFailed job) := by
  unfold State.stepFailed
  split
  · exact fun ok => ok.raise _
  · exact .of_same rfl

theorem State.programEnds_noticesKept (s : State) (faults : List Host.Cell) (job : Job) (step : MediaStep)
    (rest : List MediaStep) (bank : Bank) (offset : Nat) (data : List Byte) :
    s.NoticesKept (s.programEnds faults job step rest bank offset data) := by
  unfold State.programEnds
  dsimp only
  split
  · exact fun ok => State.stepVerified_noticesKept _ job step rest ok
  · exact fun ok => State.stepFailed_noticesKept _ job ok

theorem State.eraseEnds_noticesKept (s : State) (faults : List Host.Cell) (job : Job) (step : MediaStep)
    (rest : List MediaStep) (bank : Bank) : s.NoticesKept (s.eraseEnds faults job step rest bank) := by
  unfold State.eraseEnds
  dsimp only
  split
  · exact fun ok => State.stepVerified_noticesKept _ job step rest ok
  · exact fun ok => State.stepFailed_noticesKept _ job ok

theorem State.runStage_noticesKept (s : State) : s.NoticesKept s.runStage := by
  have decided : s.NoticesKept s.autoRunStage := by
    unfold State.autoRunStage
    dsimp only
    split
    · exact fun ok => State.startRun_noticesKept _ 0 ok
    · exact .of_same rfl
  exact State.NoticesKept.arbitrated (decided.trans fun ok => ok.raise _)

theorem State.scanEnds_noticesKept (s : State) (found : Directory) (report : ScanReport) :
    s.NoticesKept (s.scanEnds found report) := by
  have booted : s.NoticesKept (s.scanDone found report).bootLoad.applyChannelBlock := .of_same
  unfold State.scanEnds
  dsimp only
  split
  · exact booted.trans (State.runStage_noticesKept _)
  · exact booted

/-! ## Requests (R147 to R151) -/

theorem State.examine_noticesKept {s : State} {code : Nat} {q : Req} {execute : State → Answer}
    (owns : ∀ u : State, u.NoticesKept (execute u).state) : s.NoticesKept (s.examine code q execute) := by
  have sent (r : Reply) : s.NoticesKept (s.send r false) := .of_agrees (s.send_agrees r false)
  unfold State.examine
  split
  · exact sent _
  · split
    · exact sent _
    · split
      · exact sent _
      · obtain ⟨agrees, -⟩ := (execute (s.uncache code q)).reply_spec code q
        exact State.NoticesKept.trans (t := s.uncache code q) .of_same ((owns _).trans (.of_agrees agrees))

theorem State.takeRequest_noticesKept {s : State} {code : Nat} {q : Req} {execute : State → Answer}
    (owns : ∀ u : State, u.NoticesKept (execute u).state) :
    s.NoticesKept (s.takeRequest code q fun t => t.examine code q execute) := by
  unfold State.takeRequest
  split
  · split
    · split
      · exact State.NoticesKept.trans (t := s.cleared) (.of_same rfl) (State.examine_noticesKept owns)
      · exact .of_same rfl
    · exact .of_same
  · exact .refl s

/-- A request keeps the notice queue in form if its owner does. -/
theorem requestStep_noticesKept {π : Type} {code : Nat} {read : List Byte → Option π} {owner : π → State → Answer}
    {q : Req} {s t : State} (h : requestStep code read owner q s = .next t)
    (owns : ∀ (p : π) (u : State), u.NoticesKept (owner p u).state) : s.NoticesKept t := by
  cases h
  refine State.takeRequest_noticesKept fun u => ?_
  unfold executeWith
  split
  · exact .refl u
  · exact owns _ u

/-! ## Owners that leave the notices alone -/

theorem edit_notices {s : State} {bad : Option Nat} {rest : Answer} (h : rest.state.notices = s.notices) :
    (edit s bad rest).state.notices = s.notices := by
  unfold edit
  split
  · rfl
  · split
    · rfl
    · exact h

theorem entryAddOwner_notices (raw : RawEntry) (s : State) : (entryAddOwner raw s).state.notices = s.notices := by
  unfold entryAddOwner
  (repeat' split) <;> rfl

theorem windowAddOwner_notices (raw : RawWindow) (s : State) : (windowAddOwner raw s).state.notices = s.notices := by
  unfold windowAddOwner
  (repeat' split) <;> rfl

theorem planCommitOwner_notices (p : Unit) (s : State) : (planCommitOwner p s).state.notices = s.notices := by
  have commits (u : State) : u.commit.state.notices = u.notices := by
    unfold State.commit
    dsimp only
    split <;> rfl
  unfold planCommitOwner
  split
  · rfl
  · split
    · rfl
    · exact commits _

theorem planAbandonOwner_notices (p : Unit) (s : State) : (planAbandonOwner p s).state.notices = s.notices := by
  unfold planAbandonOwner
  split <;> rfl

theorem heldIdle_notices {s taken : State} (i : Fin 8) (h : taken.notices = s.notices) :
    (heldIdle s i taken).state.notices = s.notices := by
  unfold heldIdle
  split
  · rfl
  · split
    · rfl
    · split
      · rfl
      · exact h

theorem channelHoldOwner_notices (c : Nat) (s : State) : (channelHoldOwner c s).state.notices = s.notices := by
  unfold channelHoldOwner
  (repeat' split) <;> rfl

theorem channelSetOwner_notices (f : Nat × Nat) (s : State) : (channelSetOwner f s).state.notices = s.notices := by
  unfold channelSetOwner
  split
  · rfl
  · rfl
  · exact heldIdle_notices _ rfl

theorem channelPulseOwner_notices (f : Nat × Nat) (s : State) : (channelPulseOwner f s).state.notices = s.notices := by
  unfold channelPulseOwner
  split
  · rfl
  · split
    · rfl
    · exact heldIdle_notices _ rfl

theorem channelReleaseOwner_notices (c : Nat) (s : State) : (channelReleaseOwner c s).state.notices = s.notices := by
  unfold channelReleaseOwner
  split <;> rfl

theorem captureReadOwner_notices (n : Nat) (s : State) : (captureReadOwner n s).state.notices = s.notices := by
  unfold captureReadOwner
  split <;> rfl

theorem profileLoadOwner_notices (n : Nat) (s : State) : (profileLoadOwner n s).state.notices = s.notices := by
  have loads (e : DirEntry) : (s.loadEntry e).state.notices = s.notices := by
    unfold State.loadEntry
    split <;> rfl
  unfold profileLoadOwner
  split
  · rfl
  · split
    · rfl
    · split
      · rfl
      · split
        · rfl
        · exact loads _

theorem restartOwner_notices (p : Unit) (s : State) : (restartOwner p s).state.notices = s.notices := by
  unfold restartOwner
  split <;> rfl

theorem countersClearOwner_notices (n : Nat) (s : State) : (countersClearOwner n s).state.notices = s.notices := by
  unfold countersClearOwner
  split
  · rfl
  · simp

/-! ## Owners that raise or mark notices -/

theorem runOwner_noticesKept (count : Nat) (s : State) : s.NoticesKept (runOwner count s).state := by
  unfold runOwner
  split
  · exact .refl s
  · split
    · exact .refl s
    · split
      · exact s.startRun_noticesKept count
      · exact .refl s

theorem finishOwner_noticesKept (p : Unit) (s : State) : s.NoticesKept (finishOwner p s).state := by
  unfold finishOwner
  split
  · exact .of_same rfl
  · exact s.enterHalted_noticesKept _ _ _
  · exact s.enterHalted_noticesKept _ _ _
  · exact .refl s
  · exact .refl s

theorem haltOwner_noticesKept (p : Unit) (s : State) : s.NoticesKept (haltOwner p s).state := by
  unfold haltOwner
  split
  · exact s.enterHalted_noticesKept _ _ _
  · exact .refl s

theorem captureWatermarkOwner_noticesKept (n : Nat) (s : State) : s.NoticesKept (captureWatermarkOwner n s).state := by
  unfold captureWatermarkOwner
  split
  · unfold State.watermarked
    dsimp only
    split
    · exact fun ok => ok.raise _
    · exact .of_same rfl
  · exact .refl s

/-- An operation that wear blocks ends at once, and is told (R114). -/
theorem State.writeRecord_noticesKept (s : State) (op : StoreOp) (size : Nat)
    (steps : Directory → Bank → List MediaStep) : s.NoticesKept (s.writeRecord op size steps) := by
  unfold State.writeRecord
  split
  · exact .of_same rfl
  · split
    · exact fun ok => ok.raise _
    · exact .of_same rfl

theorem writing_noticesKept {s : State} {bad : Option Nat} {rest : Answer} (h : s.NoticesKept rest.state) :
    s.NoticesKept (writing s bad rest).state := by
  unfold writing
  split
  · exact .refl s
  · split
    · exact .refl s
    · split
      · exact .refl s
      · exact h

theorem profileSaveOwner_noticesKept (f : Nat × List Byte) (s : State) :
    s.NoticesKept (profileSaveOwner f s).state := by
  refine writing_noticesKept ?_
  split
  · exact s.writeRecord_noticesKept _ _ _
  · exact .refl s

theorem profileDeleteOwner_noticesKept (n : Nat) (s : State) : s.NoticesKept (profileDeleteOwner n s).state := by
  unfold profileDeleteOwner
  split
  · exact .refl s
  · refine writing_noticesKept ?_
    split <;> exact .of_same rfl

theorem bootSetOwner_noticesKept (f : Nat × Nat) (s : State) : s.NoticesKept (bootSetOwner f s).state := by
  unfold bootSetOwner
  split
  · exact .refl s
  · refine writing_noticesKept ?_
    split
    · exact s.writeRecord_noticesKept _ _ _
    · split
      · exact s.writeRecord_noticesKept _ _ _
      · exact .refl s

theorem storeFormatOwner_noticesKept (p : Unit) (s : State) : s.NoticesKept (storeFormatOwner p s).state := by
  unfold storeFormatOwner
  split
  · exact .refl s
  · split
    · exact fun ok => ok.raise _
    · exact .of_same rfl

/-- A HELLO marks the entries and sets the resend interval (R153, R167). -/
theorem helloOwner_noticesKept (h : Hello) (s : State) : s.NoticesKept (helloOwner h s).state := by
  unfold helloOwner
  split
  · exact .refl s
  · split
    · exact .refl s
    · exact fun ok => ok.marked (f := fun n => { n with sent := false }) (fun _ => rfl) h.resend

/-! ## Commands -/

/-- A happening that takes effect only when it is due keeps the queue in form if its effect does. -/
theorem noticesKept_of_due {s effect t : State} {due : Bool}
    (h : (.next (if due then effect else s) : Host.Outcome State Fault Refusal) = .next t)
    (kept : s.NoticesKept effect) : s.NoticesKept t := by
  cases h
  split
  · exact kept
  · exact .refl s

theorem execProgramStepEnd_noticesKept {faults : List Host.Cell} {s t : State} (h : execProgramStepEnd faults s = .next t) :
    s.NoticesKept t := by
  unfold execProgramStepEnd at h
  split at h
  · cases h; exact .refl s
  · split at h
    · cases h; exact .refl s
    · split at h
      · cases h; exact .refl s
      · split at h
        · cases h; exact .refl s
        · split at h <;> cases h
          exact (s.programEnds_noticesKept _ _ _ _ _ _ _).arbitrated

theorem execEraseEnd_noticesKept {faults : List Host.Cell} {s t : State} (h : execEraseEnd faults s = .next t) :
    s.NoticesKept t := by
  cases h
  split
  · split
    · exact .refl s
    · split
      · exact .refl s
      · split
        · exact (s.eraseEnds_noticesKept _ _ _ _ _).arbitrated
        · exact .refl s
  · exact .refl s

theorem execTransmitFrameEnd_noticesKept {s t : State} (h : execTransmitFrameEnd s = .next t) : s.NoticesKept t := by
  cases h
  split
  · split
    · have idle (u : State) : u.NoticesKept u.txIdle := .of_same
      exact ((s.frameLeft_noticesKept _).trans (idle _)).arbitrated
    · exact .refl s
  · exact .refl s

theorem execTimelineEdge_noticesKept {s t : State} (h : execTimelineEdge s = .next t) : s.NoticesKept t := by
  cases h
  split
  · split
    · exact .of_same
    · exact .refl s
  · exact .refl s

theorem execStoreScanEnd_noticesKept {s t : State} (h : execStoreScanEnd s = .next t) : s.NoticesKept t := by
  cases h
  split
  · exact s.scanEnds_noticesKept _ _
  · exact .refl s

theorem execRawLineChange_noticesKept {line : Line} {level : Wire} {s t : State}
    (h : execRawLineChange line level s = .next t) : s.NoticesKept t := by
  cases h
  cases line <;> exact .of_same rfl

/-- Every command keeps the notice queue in form. -/
theorem exec_noticesKept {c : Instr} {s t : State} (h : exec c s = .next t) : s.NoticesKept t := by
  cases c
  case run q => exact requestStep_noticesKept h runOwner_noticesKept
  case finish q => exact requestStep_noticesKept h finishOwner_noticesKept
  case halt q => exact requestStep_noticesKept h haltOwner_noticesKept
  case planSetCycle q | planClear q | planCopyActive q =>
    exact requestStep_noticesKept h fun _ _ => .of_same (edit_notices rfl)
  case planSetChannel q | planSetInput q | entryRemove q | windowRemove q =>
    exact requestStep_noticesKept h fun _ _ => .of_same (edit_notices (by split <;> rfl))
  case entryAdd q => exact requestStep_noticesKept h fun p u => .of_same (entryAddOwner_notices p u)
  case windowAdd q => exact requestStep_noticesKept h fun p u => .of_same (windowAddOwner_notices p u)
  case planRead q => exact requestStep_noticesKept h fun p u => .of_same (by rw [planReadOwner_state])
  case entryList q => exact requestStep_noticesKept h fun p u => .of_same (by rw [entryListOwner_state])
  case windowList q => exact requestStep_noticesKept h fun p u => .of_same (by rw [windowListOwner_state])
  case planCheck q => exact requestStep_noticesKept h fun p u => .of_same (by rw [planCheckOwner_state])
  case planCommit q => exact requestStep_noticesKept h fun p u => .of_same (planCommitOwner_notices p u)
  case planAbandon q => exact requestStep_noticesKept h fun p u => .of_same (planAbandonOwner_notices p u)
  case channelHold q => exact requestStep_noticesKept h fun p u => .of_same (channelHoldOwner_notices p u)
  case channelSet q => exact requestStep_noticesKept h fun p u => .of_same (channelSetOwner_notices p u)
  case channelPulse q => exact requestStep_noticesKept h fun p u => .of_same (channelPulseOwner_notices p u)
  case channelRelease q => exact requestStep_noticesKept h fun p u => .of_same (channelReleaseOwner_notices p u)
  case captureRead q => exact requestStep_noticesKept h fun p u => .of_same (captureReadOwner_notices p u)
  case captureWatermark q => exact requestStep_noticesKept h captureWatermarkOwner_noticesKept
  case profileSave q => exact requestStep_noticesKept h profileSaveOwner_noticesKept
  case profileDelete q => exact requestStep_noticesKept h profileDeleteOwner_noticesKept
  case bootSet q => exact requestStep_noticesKept h bootSetOwner_noticesKept
  case storeFormat q => exact requestStep_noticesKept h storeFormatOwner_noticesKept
  case profileLoad q => exact requestStep_noticesKept h fun p u => .of_same (profileLoadOwner_notices p u)
  case restart q => exact requestStep_noticesKept h fun p u => .of_same (restartOwner_notices p u)
  case hello q => exact requestStep_noticesKept h helloOwner_noticesKept
  case countersRead q => exact requestStep_noticesKept h fun p u => .of_same (by rw [countersReadOwner_state])
  case countersClear q => exact requestStep_noticesKept h fun p u => .of_same (countersClearOwner_notices p u)
  case captureFlush q | profileList q | storeStatus q | goodbye q | status q =>
    exact requestStep_noticesKept h fun _ _ => .of_same rfl
  case ack number => cases h; exact s.takeAck_noticesKept number
  case frameReceived bytes => exact noticesKept_of_due h .of_same
  case characterReceived byte lineError => exact noticesKept_of_due h .of_same
  case gapTimerExpiry => exact noticesKept_of_due h .of_same
  case transmitFrameEnd => exact execTransmitFrameEnd_noticesKept h
  case lapse => exact noticesKept_of_due h s.lapses_noticesKept.arbitrated
  case resendTimerExpiry number => exact noticesKept_of_due h (s.resends_noticesKept _).arbitrated
  case inputEdge i d => exact noticesKept_of_due h (s.inputEdges_noticesKept i d).arbitrated
  case stopAsserted => exact noticesKept_of_due h s.stops_noticesKept.arbitrated
  case stopReleased => exact noticesKept_of_due h .of_same
  case timelineEdge => exact execTimelineEdge_noticesKept h
  case endOfCycle => exact noticesKept_of_due h s.endCycle_noticesKept.arbitrated
  case windowOpen id => exact noticesKept_of_due h (.of_same rfl)
  case windowClose => exact noticesKept_of_due h (s.closeAndReport_noticesKept _).arbitrated
  case waitTimerExpiry => exact noticesKept_of_due h s.starves_noticesKept.arbitrated
  case manualPulseExpiry c => exact noticesKept_of_due h .of_same
  case programStepEnd faults => exact execProgramStepEnd_noticesKept h
  case eraseEnd faults => exact execEraseEnd_noticesKept h
  case storeScanEnd => exact execStoreScanEnd_noticesKept h
  case powerUp torn => cases h; exact s.resetBy_noticesKept _ _ _
  case resetLine torn => exact noticesKept_of_due h (s.resetBy_noticesKept _ _ _)
  case resetEnd rate1 rate0 => cases h; split <;> exact .of_same
  case rawLineChange line level => exact execRawLineChange_noticesKept h
  case powerLoss torn => exact noticesKept_of_due h (s.resetBy_noticesKept _ _ _)

/-! ## Steps -/

theorem State.takeFrame_noticesKept {s t : State} {f : Frame} (h : s.takeFrame f = .next t) : s.NoticesKept t := by
  unfold State.takeFrame at h
  split at h
  · split at h
    · exact exec_noticesKept h
    · split at h
      · exact exec_noticesKept h
      · cases h
        exact State.takeRequest_noticesKept fun u => .refl u
  · cases h
    exact .of_same

theorem State.takeDue_noticesKept {s t : State} {d : Due} (h : s.takeDue d = .next t) : s.NoticesKept t := by
  cases d with
  | command c => exact exec_noticesKept h
  | takeFrame f => exact State.takeFrame_noticesKept h
  | runStage => cases h; exact s.runStage_noticesKept

theorem State.idle_noticesKept {s t : State} (h : s.idle = .next t) : s.NoticesKept t := by
  unfold State.idle at h
  split at h
  · split at h
    · cases h
      exact s.tick_noticesKept
    · exact State.takeDue_noticesKept h
    · exact State.NoticesKept.trans (t := { s with choices := s.choices + 1 }) (.of_same rfl)
        (State.takeDue_noticesKept h)
  · cases h
    exact .refl s

/-- Settles O59: every command, every happening that is due and every tick keeps the notice queue in form. -/
theorem everyStepKeepsTheNoticeQueue : Obligations.EveryStepKeepsTheNoticeQueue := by
  intro s t ok h
  unfold step at h
  split at h
  · exact State.idle_noticesKept h ok
  · rename_i rest _
    exact State.NoticesKept.trans (t := { s with pending := rest }) (.of_same rfl) (exec_noticesKept h) ok

end Sys2Proof.Machine

end

section
/-! The media's canonical form over every step: whole, faulty and cut-off media steps keep it, and nothing else writes the
media (06 section 6.1, R100). -/

namespace Sys2Proof.Machine

theorem State.mediaOk.of_same {s t : State} (ok : s.mediaOk) (same : t.media = s.media) : t.mediaOk :=
  (congrArg Media.wf same).trans ok

/-! ## The ends of media steps (R100) -/

/-- A row within its bank lies within the two banks. -/
theorem Bank.row_inside (bank : Bank) {offset n : Nat} (fits : offset + n ≤ Config.bankSize) :
    bank.base + offset + n ≤ 2 * Config.bankSize := by
  have base := bank.base_le
  omega

/-- What an erase that ends leaves on the media, verified or not. -/
theorem State.eraseEnds_media (s : State) (faults : List Host.Cell) (job : Job) (step : MediaStep) (rest : List MediaStep)
    (bank : Bank) :
    (s.eraseEnds faults job step rest bank).media = (s.media.erase [] bank).force bank.base Config.bankSize faults := by
  unfold State.eraseEnds
  dsimp only
  split <;> simp

theorem State.programEnds_mediaOk {s : State} (ok : s.mediaOk) (faults : List Host.Cell) (job : Job) (step : MediaStep)
    (rest : List MediaStep) (bank : Bank) {offset : Nat} {data : List Byte} (fits : offset + data.length ≤ Config.bankSize) :
    (s.programEnds faults job step rest bank offset data).mediaOk := by
  have inside := bank.row_inside fits
  obtain ⟨left, -⟩ := s.programEnds_media ok faults job step rest bank offset data inside 0
  rw [State.mediaOk, left]
  exact Media.force_wf _ (Media.program_wf _ ok [] _ data inside) _ _ _ inside

theorem State.eraseEnds_mediaOk {s : State} (ok : s.mediaOk) (faults : List Host.Cell) (job : Job) (step : MediaStep)
    (rest : List MediaStep) (bank : Bank) : (s.eraseEnds faults job step rest bank).mediaOk := by
  rw [State.mediaOk, s.eraseEnds_media]
  exact Media.force_wf _ (Media.erase_wf _ ok [] bank) _ _ _ (bank.row_inside (offset := 0) (by simp))

/-- The end of a program step changes nothing, or ends the step under way, whose row lies in its bank. -/
theorem execProgramStepEnd_cases {faults : List Host.Cell} {s t : State} (h : execProgramStepEnd faults s = .next t) :
    t = s ∨ ∃ job step rest bank offset data, offset + data.length ≤ Config.bankSize ∧
      t = (s.programEnds faults job step rest bank offset data).arbitrate := by
  unfold execProgramStepEnd at h
  split at h
  · cases h; exact .inl rfl
  · split at h
    · cases h; exact .inl rfl
    · split at h
      · cases h; exact .inl rfl
      · split at h
        · cases h; exact .inl rfl
        · split at h <;> cases h
          rename_i fits
          exact .inr ⟨_, _, _, _, _, _, Nat.not_lt.mp fits, rfl⟩

/-- The end of an erase changes nothing, or ends the step under way. -/
theorem execEraseEnd_cases {faults : List Host.Cell} {s t : State} (h : execEraseEnd faults s = .next t) :
    t = s ∨ ∃ job step rest bank, t = (s.eraseEnds faults job step rest bank).arbitrate := by
  cases h
  split
  · split
    · exact .inl rfl
    · split
      · exact .inl rfl
      · split
        · exact .inr ⟨_, _, _, _, rfl⟩
        · exact .inl rfl
  · exact .inl rfl

/-! ## Commands and steps -/

/-- A command that writes the media is the end of a media step or a reset, and each of these keeps the form. -/
theorem exec_mediaOk {c : Instr} {s t : State} (ok : s.mediaOk) (h : exec c s = .next t) : t.mediaOk := by
  rcases exec_cases h with ⟨cause, torn, powered, -, rfl⟩ | kept
  · exact s.tornMedia_wf ok torn
  · by_cases same : t.media = s.media
    · exact ok.of_same same
    · rcases leaveOf_writes (kept.media same) with ⟨faults, rfl⟩ | ⟨faults, rfl⟩
      · rcases execProgramStepEnd_cases h with rfl | ⟨job, step, rest, bank, offset, data, fits, rfl⟩
        · exact ok
        · exact (State.programEnds_mediaOk ok faults job step rest bank fits).of_same (by simp)
      · rcases execEraseEnd_cases h with rfl | ⟨job, step, rest, bank, rfl⟩
        · exact ok
        · exact (State.eraseEnds_mediaOk ok faults job step rest bank).of_same (by simp)

/-- Settles O54: a step with no command waiting writes no media, and every command keeps the form. -/
theorem everyStepKeepsTheMediaForm : Obligations.EveryStepKeepsTheMediaForm := by
  intro s t ok h
  unfold step at h
  split at h
  · exact ok.of_same (by_contra (State.idle_kept h).media)
  · rename_i rest _
    exact exec_mediaOk (s := { s with pending := rest }) ok h

end Sys2Proof.Machine
end
